-- ==== Sys2Proof/Word.lean ====
section
/-! DEFINITION. The data the block moves: bytes, half words, words, and the 32-byte queue entry. -/

namespace Sys2Proof

/-- `u8` (00_scope.md R11). -/
abbrev Byte := BitVec 8

/-- `u16` (00_scope.md R11). -/
abbrev Half := BitVec 16

/-- `u32` (00_scope.md R11). -/
abbrev Word := BitVec 32

/-- One queue entry, `REQ32` or `RSP32`: `w[0..7]` of `u32` (30_encoding.md R112, R113; 90_conflicts.md C1). -/
structure Entry where
  w0 : Word
  w1 : Word
  w2 : Word
  w3 : Word
  w4 : Word
  w5 : Word
  w6 : Word
  w7 : Word
deriving DecidableEq, Repr, Inhabited

/-- `ZERO32`, the all-zero entry (41_dispatch.md R187). -/
def Entry.zero : Entry := ⟨0, 0, 0, 0, 0, 0, 0, 0⟩

end Sys2Proof
end

