-- ==== Sys2Proof/Config.lean ====
section
/-! DEFINITION. What an implementation fixes (00_scope.md R9, R10) and what the spec leaves to functions and values outside the block (10_state.md R64, 43_noc.md R287). -/

namespace Sys2Proof

/-- `TENSIX_COLS`: the physical column order and the logical slot list at once (00_scope.md R9). -/
def tensixCols : List Nat := [1, 2, 3, 4, 5, 6, 7, 10, 11, 12, 13, 14, 15, 16]

/-- `NOC_X_SIZE` (00_scope.md R9). -/
def nocXSize : Nat := 17

/-- `NOC_Y_SIZE` (00_scope.md R9). -/
def nocYSize : Nat := 12

/-- `KIND_ID` (00_scope.md R10): the number of each named CM2DM kind. Null is 0 always. -/
structure KindIds where
  resetReq : Byte
  ping : Byte
  fanSpeedUpdate : Byte
  ready : Byte
  autoResetTimeoutUpdate : Byte
  heartbeatUpdate : Byte
  forcedFanSpeedUpdate : Byte
  pingV2 : Byte
deriving DecidableEq, Repr

/-- The reference numbering of 30_encoding.md R127. -/
def KindIds.reference : KindIds := ⟨1, 2, 3, 4, 5, 6, 7, 8⟩

/-- `NOC_GEOMETRY`, the placement constants of 43_noc.md R271. -/
structure Geometry where
  tensixRows : List Nat
  nGddr : Nat
  gddrPerCol : Nat
  gddrRowsPer : Nat
  gddrColW : Nat
  gddrColE : Nat
  dramPreXW : Nat
  dramPreXE : Nat
  dramPreY0 : Nat
  /-- `ETH_X[0..N_ETH-1]`; its length is `N_ETH`. -/
  ethX : List Nat
  ethRow : Nat
  ethPreX0 : Nat
  ethSlots : Nat
  ethPreY : Nat
  pciePhys0 : Nat × Nat
  pciePhys1 : Nat × Nat
  pcieRow : Nat
  pciePreX : Nat
  pciePreY : Nat
  arc : Nat × Nat
  mgmtCol : Nat
deriving DecidableEq, Repr

/-- The reference geometry of 43_noc.md R272. -/
def Geometry.reference : Geometry where
  tensixRows := [2, 3, 4, 5, 6, 7, 8, 9, 10, 11]
  nGddr := 8
  gddrPerCol := 4
  gddrRowsPer := 3
  gddrColW := 0
  gddrColE := 9
  dramPreXW := 17
  dramPreXE := 18
  dramPreY0 := 12
  ethX := tensixCols
  ethRow := 1
  ethPreX0 := 20
  ethSlots := 12
  ethPreY := 25
  pciePhys0 := (2, 0)
  pciePhys1 := (11, 0)
  pcieRow := 0
  pciePreX := 19
  pciePreY := 24
  arc := (8, 0)
  mgmtCol := 8

/-- One entry of `FIXED_NODES`: `{pre (px, py), phys (x, y)}` (43_noc.md R284). -/
structure FixedNode where
  preX : Nat
  preY : Nat
  physX : Nat
  physY : Nat
deriving DecidableEq, Repr

/-- The parameters a model takes as arguments (00_scope.md R10, with `WD_RESET_ARG` of 42_cm2dm.md R251 and `BLOCK_BASE` of 20_memory.md R91). They are held in the state's `cfg` field, so that a statement about every state is a statement about every choice of them. -/
structure Params where
  queueCapacity : Nat
  kindCount : Nat
  kindId : KindIds
  /-- `TICK_PERIOD` in whole milliseconds: DESIGN CHOICE, R10 admits any positive duration (notes/assumptions/22.md). No rule reads it (70_reset_and_hazards.md R395). -/
  tickPeriodMs : Nat
  resetDelayTicks : Word
  wdResetArg : Word
  pingTimeoutTicks : Word
  semMax : Word
  gddrNone : Byte
  errBadGddr : Byte
  geo : Geometry
  fixedNodes : List FixedNode
  /-- `BLOCK_BASE`, an open parameter without a default; no rule reads it (20_memory.md R91). -/
  blockBase : Nat
deriving DecidableEq, Repr

/-- The reference defaults of 00_scope.md R10. DESIGN CHOICE, unsafe: two parameters have no default in the spec: `QUEUE_CAPACITY`, where 4 is the value its test vectors use first, and `BLOCK_BASE`, where the model takes 0 (notes/assumptions/4.md). -/
def Params.reference : Params where
  queueCapacity := 4
  kindCount := 9
  kindId := KindIds.reference
  tickPeriodMs := 20
  resetDelayTicks := 1
  wdResetArg := 0
  pingTimeoutTicks := 1
  semMax := 0xFFFFFFFF
  gddrNone := 0xFF
  errBadGddr := 1
  geo := Geometry.reference
  fixedNodes := []
  blockBase := 0

/-- What an external handler gives back: its status byte, its output buffer, and the external state after it (10_state.md R64). -/
structure HandlerReply where
  status : Byte
  out : Entry
  ext : Nat
deriving DecidableEq, Repr, Inhabited

/-- The external handler functions, by handler id: `(t, request, G) -> (status, response, G')` (10_state.md R64, 41_dispatch.md R189, R196). A free value: it has no body, so a statement holds for every choice of handlers (notes/assumptions/10.md). -/
opaque Config.externalHandler : Byte → Byte → Entry → Nat → HandlerReply

/-- The init-handshake step functions `step_i(G) -> (ok, G')`, i in 0..2 (10_state.md R64, 42_cm2dm.md R265). A free value (notes/assumptions/10.md). -/
opaque Config.initStep : Nat → Nat → Bool × Nat

/-- The drawn `x_table` entry of a violated class: draw number, ring, index (43_noc.md R287). A free value (notes/assumptions/11.md). -/
opaque Config.drawX : Nat → Nat → Nat → Byte

/-- The drawn `y_table` entry of a violated class: draw number, ring, index (43_noc.md R287). A free value (notes/assumptions/11.md). -/
opaque Config.drawY : Nat → Nat → Nat → Byte

/-- The drawn `logical` entry of a violated class: draw number, ring, x, y (43_noc.md R287). A free value (notes/assumptions/11.md). -/
opaque Config.drawLogical : Nat → Nat → Nat → Nat → Half

end Sys2Proof
end

