-- ==== Sys2Proof/Syntax.lean ====
section
/-! DEFINITION. The transactions of the block: one constructor of `Instr` for each row of the opcode table (18 port operations, 6 command codes, 9 CM2DM kinds). -/

namespace Sys2Proof

/-- The parties that can start a transaction (00_scope.md R6). -/
inductive Agent where
  | transport
  | loop
  | handler
  | timebase
  | reset
deriving DecidableEq, Repr

/-- A handler's name (10_state.md R36, R64; 41_dispatch.md R196): the two built-in handlers of R190 and R191, or an external one. -/
inductive HandlerName where
  | pingDM
  | debugNoc
  | external (id : Byte)
deriving DecidableEq, Repr

/-- `CM2DM6`: `{msg_id, seq_num, data}` (30_encoding.md R114). -/
structure Record where
  id : Byte
  seq : Byte
  data : Word
deriving DecidableEq, Repr

/-- `ACK2`: `{msg_id, seq_num}` (30_encoding.md R115). -/
structure Ack where
  id : Byte
  seq : Byte
deriving DecidableEq, Repr

/-- The named status views of 10_state.md R59. `QSTAT` takes a queue (40_queue.md R153). -/
inductive StatView where
  | qstat (q : Byte)
  | dstat
  | txstat
  | rxstat
  | tmrstat
  | gstat
  | nocstat
  | fstat
deriving DecidableEq, Repr

/-- Bytes 1..31 of a request, the command-specific fields: `w[0][31:8]` and `w[1..7]` (30_encoding.md R112). -/
structure Payload where
  hi : BitVec 24
  w1 : Word
  w2 : Word
  w3 : Word
  w4 : Word
  w5 : Word
  w6 : Word
  w7 : Word
deriving DecidableEq, Repr

/-- The transactions. A port operation names the agent that starts it (R125); a command is a request that DISP takes from channel `c` (R126); a kind is a CM2DM6 record that TRANSPORT delivers (R127). -/
inductive Instr where
  /-- PUSH q, e (40_queue.md R151). -/
  | push (a : Agent) (q : Byte) (e : Entry)
  /-- POP q (40_queue.md R152). -/
  | pop (a : Agent) (q : Byte)
  /-- STAT view (40_queue.md R153). -/
  | stat (a : Agent) (v : StatView)
  /-- REG t, h (41_dispatch.md R180). -/
  | reg (a : Agent) (t : Byte) (h : HandlerName)
  /-- START (41_dispatch.md R181). -/
  | start (a : Agent)
  /-- DPASS (41_dispatch.md R185). -/
  | dpass (a : Agent)
  /-- POST kind, data (42_cm2dm.md R210). -/
  | post (a : Agent) (k : Byte) (v : Word)
  /-- POLL (42_cm2dm.md R212). -/
  | poll (a : Agent)
  /-- READMSG (42_cm2dm.md R214). -/
  | readmsg (a : Agent)
  /-- ACKIN ack (42_cm2dm.md R216). -/
  | ackin (a : Agent) (k : Ack)
  /-- MSGIN record (42_cm2dm.md R230). -/
  | msgin (a : Agent) (m : Record)
  /-- PINGCHK (42_cm2dm.md R260). -/
  | pingchk (a : Agent)
  /-- INITTICK (42_cm2dm.md R265). -/
  | inittick (a : Agent)
  /-- TICK (42_cm2dm.md R250). -/
  | tick (a : Agent)
  /-- SETHARV tensix_bad, gddr_bad, skip_eth, eth_bad, pcie_en (43_noc.md R273). -/
  | setharv (a : Agent) (tb : Half) (g : Byte) (se : Half) (eb : Half) (pe : Byte)
  /-- COMPUTE (43_noc.md R275). -/
  | compute (a : Agent)
  /-- PROGRAM (43_noc.md R288). -/
  | program (a : Agent)
  /-- CLEAR (43_noc.md R290). -/
  | clear (a : Agent)
  /-- Command 0x12 SetVoltage (41_dispatch.md R189). -/
  | setVoltage (c : Fin 4) (p : Payload)
  /-- Command 0x21 PowerSetting (41_dispatch.md R189). -/
  | powerSetting (c : Fin 4) (p : Payload)
  /-- Command 0x56 TriggerReset (41_dispatch.md R189). -/
  | triggerReset (c : Fin 4) (p : Payload)
  /-- Command 0xAC ForceFanSpeed (41_dispatch.md R189). -/
  | forceFanSpeed (c : Fin 4) (p : Payload)
  /-- Command 0xC0 PingDM (41_dispatch.md R190). -/
  | pingDM (c : Fin 4) (p : Payload)
  /-- Command 0xDE DebugNocTranslation (41_dispatch.md R191). -/
  | debugNocTranslation (c : Fin 4) (p : Payload)
  /-- Kind Null (42_cm2dm.md R232). -/
  | nullMsg (seq : Byte) (data : Word)
  /-- Kind ResetReq (42_cm2dm.md R236). -/
  | resetReq (seq : Byte) (data : Word)
  /-- Kind Ping (42_cm2dm.md R237). -/
  | ping (seq : Byte) (data : Word)
  /-- Kind FanSpeedUpdate (42_cm2dm.md R240). -/
  | fanSpeedUpdate (seq : Byte) (data : Word)
  /-- Kind Ready (42_cm2dm.md R240). -/
  | ready (seq : Byte) (data : Word)
  /-- Kind AutoResetTimeoutUpdate (42_cm2dm.md R238). -/
  | autoResetTimeoutUpdate (seq : Byte) (data : Word)
  /-- Kind HeartbeatUpdate (42_cm2dm.md R239). -/
  | heartbeatUpdate (seq : Byte) (data : Word)
  /-- Kind ForcedFanSpeedUpdate (42_cm2dm.md R240). -/
  | forcedFanSpeedUpdate (seq : Byte) (data : Word)
  /-- Kind PingV2 (42_cm2dm.md R237). -/
  | pingV2 (seq : Byte) (data : Word)
deriving DecidableEq, Repr

end Sys2Proof
end

