-- ==== Sys2Proof/WellFormed.lean ====
section
/-! DEFINITION. Which operands an instruction may carry, and which parameter choices the spec admits. -/

namespace Sys2Proof

/-- A queue operand names one of the 8 queues (30_encoding.md R111, R124). -/
def queueOk (q : Byte) : Bool := decide (q.toNat < 8)

/-- A view operand names a view; `QSTAT` also names a queue (40_queue.md R153). -/
def StatView.wellFormed : StatView → Bool
  | .qstat q => queueOk q
  | _ => true

/-- External handlers have the ids 2..255; 0 and 1 are the wire names of the built-in ones (notes/assumptions/21.md). -/
def HandlerName.wellFormed : HandlerName → Bool
  | .external id => decide (2 ≤ id.toNat)
  | _ => true

/-- The operand ranges of 30_encoding.md R124. Every other operand takes every value of its type. -/
def Instr.wellFormed : Instr → Bool
  | .push _ q _ => queueOk q
  | .pop _ q => queueOk q
  | .stat _ v => v.wellFormed
  | .reg _ _ h => h.wellFormed
  | _ => true

/-- The numbers of the eight named kinds other than Null. -/
def KindIds.all (k : KindIds) : List Byte :=
  [k.resetReq, k.ping, k.fanSpeedUpdate, k.ready, k.autoResetTimeoutUpdate, k.heartbeatUpdate, k.forcedFanSpeedUpdate, k.pingV2]

/-- `KIND_ID` is injective with Null = 0 (00_scope.md R10). -/
def KindIds.wf (k : KindIds) : Bool := decide (((0 : Byte) :: k.all).Nodup)

/-- The pre-translation x indices of the classes, compute tiles first (43_noc.md R271). -/
def Geometry.preXs (g : Geometry) : List Nat :=
  tensixCols ++ [g.dramPreXW, g.dramPreXE] ++ List.range' g.ethPreX0 g.ethSlots ++ [g.pciePreX]

/-- The DRAM pre-y range `DRAM_PRE_Y0 .. DRAM_PRE_Y0 + GDDR_PER_COL*GDDR_ROWS_PER - 1` (43_noc.md R271). -/
def Geometry.dramPreYs (g : Geometry) : List Nat := List.range' g.dramPreY0 (g.gddrPerCol * g.gddrRowsPer)

/-- The pre-translation y indices of the classes, compute rows first (43_noc.md R271). -/
def Geometry.preYs (g : Geometry) : List Nat := g.tensixRows ++ g.dramPreYs ++ [g.ethPreY] ++ [g.pciePreY]

/-- The physical columns the geometry names. -/
def Geometry.physXs (g : Geometry) : List Nat :=
  [g.gddrColW, g.gddrColE] ++ g.ethX ++ [g.pciePhys0.1, g.pciePhys1.1, g.arc.1, g.mgmtCol]

/-- The physical rows the geometry names. -/
def Geometry.physYs (g : Geometry) : List Nat :=
  g.tensixRows ++ [g.ethRow, g.pciePhys0.2, g.pciePhys1.2, g.pcieRow, g.arc.2]

/-- The constraints on `NOC_GEOMETRY` that a model may assume (43_noc.md R271). -/
def Geometry.wf (g : Geometry) : Bool :=
  decide (g.nGddr = 2 * g.gddrPerCol) && decide (g.gddrPerCol * g.gddrRowsPer ≤ nocYSize) && decide (g.ethX.length ≤ 16)
    && decide (g.tensixRows.Pairwise (· < ·))
    && decide (∀ x ∈ g.preXs, x < 32) && decide (∀ y ∈ g.preYs, y < 32)
    && decide (∀ x ∈ g.physXs, x < nocXSize) && decide (∀ y ∈ g.physYs, y < nocYSize)
    && decide g.preXs.Nodup && decide g.preYs.Nodup

/-- A fixed node's pre-translation index is a table index and its node is inside the grid (00_scope.md R18). -/
def FixedNode.wf (n : FixedNode) : Bool :=
  decide (n.preX < 32) && decide (n.preY < 32) && decide (n.physX < nocXSize) && decide (n.physY < nocYSize)

/-- The constraints of 00_scope.md R10 on every parameter. -/
def Params.wf (p : Params) : Bool :=
  decide (1 ≤ p.queueCapacity) && decide (9 ≤ p.kindCount) && p.kindId.wf
    && decide (∀ k ∈ p.kindId.all, k.toNat < p.kindCount)
    && decide (0 < p.tickPeriodMs) && decide (1 ≤ p.resetDelayTicks.toNat) && decide (1 ≤ p.pingTimeoutTicks.toNat)
    && decide (1 ≤ p.semMax.toNat) && decide (p.geo.nGddr ≤ p.gddrNone.toNat) && decide (1 ≤ p.errBadGddr.toNat)
    && p.geo.wf && p.fixedNodes.all FixedNode.wf

end Sys2Proof
end

