-- ==== Sys2Proof/Machine/Operands.lean ====
section
/-! DEFINITION. Byte order, the fields of records and requests, and the arrays' accessors (20_memory.md R81 to R86; 30_encoding.md R112 to R123). -/

namespace Sys2Proof.Machine

/-- Element `k` of an array, or `d` where the array has no such element. -/
def vget {α : Type} {n : Nat} (v : Vector α n) (k : Nat) (d : α) : α := v[k]?.getD d

/-- The array with element `k` replaced; an index outside the array changes nothing. -/
def vset {α : Type} {n : Nat} (v : Vector α n) (k : Nat) (x : α) : Vector α n := v.setIfInBounds k x

/-- The array whose element `k` is `f k`. -/
def vgen {α : Type} (n : Nat) (f : Nat → α) : Vector α n := ⟨((List.range n).map f).toArray, by simp⟩

/-- `e.w[i]`. -/
def entryWord (e : Entry) (i : Nat) : Word :=
  match i with
  | 0 => e.w0
  | 1 => e.w1
  | 2 => e.w2
  | 3 => e.w3
  | 4 => e.w4
  | 5 => e.w5
  | 6 => e.w6
  | _ => e.w7

/-- `Byte(e, k) = e.w[k div 4][8*(k mod 4)+7 : 8*(k mod 4)]` (20_memory.md R81). -/
def entryByte (e : Entry) (k : Nat) : Byte := (entryWord e (k / 4)).extractLsb' (8 * (k % 4)) 8

/-- The 16-bit field at byte offset `k` (20_memory.md R84). -/
def entryHalf (e : Entry) (k : Nat) : Half := entryByte e (k + 1) ++ entryByte e k

/-- The four bytes of a word, least significant first (20_memory.md R81, R82). -/
def wordBytes (w : Word) : List Byte := [w.extractLsb' 0 8, w.extractLsb' 8 8, w.extractLsb' 16 8, w.extractLsb' 24 8]

/-- The two bytes of a half word, least significant first (20_memory.md R82). -/
def halfBytes (h : Half) : List Byte := [h.extractLsb' 0 8, h.extractLsb' 8 8]

/-- The word whose bytes, least significant first, are `b0 b1 b2 b3` (20_memory.md R81, R84). -/
def wordOf (b0 b1 b2 b3 : Byte) : Word := b3 ++ b2 ++ b1 ++ b0

/-- The half word whose bytes, least significant first, are `b0 b1` (20_memory.md R84). -/
def halfOf (b0 b1 : Byte) : Half := b1 ++ b0

/-- The 32-bit field at byte offset `k` (20_memory.md R84). -/
def entryField32 (e : Entry) (k : Nat) : Word :=
  wordOf (entryByte e k) (entryByte e (k + 1)) (entryByte e (k + 2)) (entryByte e (k + 3))

/-- The 32 bytes of an entry, byte 0 first (20_memory.md R81). -/
def entryBytes (e : Entry) : List Byte :=
  wordBytes e.w0 ++ wordBytes e.w1 ++ wordBytes e.w2 ++ wordBytes e.w3
    ++ wordBytes e.w4 ++ wordBytes e.w5 ++ wordBytes e.w6 ++ wordBytes e.w7

/-- Word `i` of an entry given by its bytes; a missing byte counts as 0. -/
def wordAt (bs : List Byte) (i : Nat) : Word :=
  wordOf (bs.getD (4 * i) 0) (bs.getD (4 * i + 1) 0) (bs.getD (4 * i + 2) 0) (bs.getD (4 * i + 3) 0)

/-- The entry whose bytes are `bs` (20_memory.md R81). -/
def entryOfBytes (bs : List Byte) : Entry :=
  ⟨wordAt bs 0, wordAt bs 1, wordAt bs 2, wordAt bs 3, wordAt bs 4, wordAt bs 5, wordAt bs 6, wordAt bs 7⟩

/-- The command code of a request: byte 0 (30_encoding.md R112). -/
def requestCode (e : Entry) : Byte := entryByte e 0

/-- Bytes 1..31 of a request (30_encoding.md R112). -/
def requestPayload (e : Entry) : Payload :=
  ⟨e.w0.extractLsb' 8 24, e.w1, e.w2, e.w3, e.w4, e.w5, e.w6, e.w7⟩

/-- The request with command code `code` in byte 0 and `p` in bytes 1..31 (30_encoding.md R112). -/
def requestEntry (code : Byte) (p : Payload) : Entry :=
  ⟨p.hi ++ code, p.w1, p.w2, p.w3, p.w4, p.w5, p.w6, p.w7⟩

/-- The response of a handler: its output with word 0 overwritten by the zero-extended status byte (30_encoding.md R113; 41_dispatch.md R182, R183). -/
def responseEntry (status : Byte) (out : Entry) : Entry := { out with w0 := status.setWidth 32 }

/-- The fields of a `DBGNOC` request (30_encoding.md R117, R123). -/
structure DbgNoc where
  enable : Bool
  pcieInstance : Bool
  pcieOverride : Bool
  badTensix : Half
  badGddr : Byte
  skipEth : Half
deriving DecidableEq, Repr

/-- Field extraction from a `DBGNOC` request; every other bit is ignored (30_encoding.md R123, R130). -/
def dbgNocFields (e : Entry) : DbgNoc where
  enable := e.w0.getLsbD 8
  pcieInstance := e.w0.getLsbD 9
  pcieOverride := e.w0.getLsbD 10
  badTensix := e.w0.extractLsb' 16 16
  badGddr := e.w1.extractLsb' 0 8
  skipEth := e.w1.extractLsb' 16 8 ++ e.w1.extractLsb' 8 8

/-- The entry the pseudo-operation `DEBUGNOC` pushes (30_encoding.md R134). -/
def dbgNocRequest (d : DbgNoc) : Entry :=
  { Entry.zero with
    w0 := d.badTensix ++ (0 : BitVec 5) ++ BitVec.ofBool d.pcieOverride ++ BitVec.ofBool d.pcieInstance ++ BitVec.ofBool d.enable ++ (0xDE : Byte)
    w1 := (0 : Byte) ++ d.skipEth ++ d.badGddr }

/-- The entry the pseudo-operation `CMD` pushes: byte 0 is the code and bytes 1..31 are given (30_encoding.md R134). -/
def cmdRequest (code : Byte) (rest : List Byte) : Entry := entryOfBytes (code :: rest)

/-- The entry the pseudo-operation `PINGDM` pushes (30_encoding.md R134). -/
def pingDmRequest : Entry := { Entry.zero with w0 := 0xC0 }

/-- The `PINGDM` response: status 0, and `w[1]` says whether the peer answered (30_encoding.md R118). -/
def pingDmResponse (alive : Bool) : Entry := { Entry.zero with w1 := if alive then 1 else 0 }

/-- `pack(x, y) = (y << 6) | x`, an `LCOORD16` (30_encoding.md R119). -/
def packCoord (x y : Nat) : Half := (BitVec.ofNat 16 y <<< 6) ||| BitVec.ofNat 16 x

/-- The coordinate an `LCOORD16` packs: x in bits 5..0, y in bits 11..6 (30_encoding.md R119). -/
def unpackCoord (v : Half) : Nat × Nat := ((v.extractLsb' 0 6).toNat, (v.extractLsb' 6 6).toNat)

/-- The six bytes of a `CM2DM6` record (30_encoding.md R114). -/
def recordBytes (m : Record) : List Byte := m.id :: m.seq :: wordBytes m.data

/-- The ack that answers a record: its kind and sequence number (42_cm2dm.md R234; pseudo-operation `ACKREC`, 30_encoding.md R134). -/
def recordAck (m : Record) : Ack := ⟨m.id, m.seq⟩

/-- The two bytes of an `ACK2` (30_encoding.md R115). -/
def ackBytes (k : Ack) : List Byte := [k.id, k.seq]

/-- `STATIC24`, the payload of init-handshake step 0 (30_encoding.md R116). The block does not interpret it. -/
structure StaticInfo where
  version : Word
  bootloaderVersion : Word
  appVersion : Word
  startTime : Word
  initDuration : Word
  lastFaultPc : Word
deriving DecidableEq, Repr

/-- The 24 bytes of a `STATIC24` record (30_encoding.md R116). -/
def staticBytes (i : StaticInfo) : List Byte :=
  wordBytes i.version ++ wordBytes i.bootloaderVersion ++ wordBytes i.appVersion
    ++ wordBytes i.startTime ++ wordBytes i.initDuration ++ wordBytes i.lastFaultPc

/-- The `STATIC24` record that 24 bytes hold (30_encoding.md R116); any other length is no such record. -/
def staticOfBytes (bs : List Byte) : Option StaticInfo :=
  if bs.length = 24 then
    some ⟨wordAt bs 0, wordAt bs 1, wordAt bs 2, wordAt bs 3, wordAt bs 4, wordAt bs 5⟩
  else none

end Sys2Proof.Machine
end

