-- ==== Sys2Proof/Decode.lean ====
section
/-! DEFINITION. Decoding of the three layers (30_encoding.md R110, R125 to R128), and the encoder after it. The operands' wire form is the model's (R111 leaves it unspecified; notes/assumptions/2.md). -/

namespace Sys2Proof

/-- Why bytes are no instruction. -/
inductive DecodeError where
  /-- No byte at all. -/
  | noBytes
  /-- The selector is not in 30_encoding.md R125 (R128). -/
  | unknownSelector (op : Byte)
  /-- The operand bytes are too few or too many (R124). -/
  | badLength
  /-- The queue index is outside 0..7 (R124). -/
  | badQueue (q : Byte)
  /-- The view is not one of 10_state.md R59 (40_queue.md R153). -/
  | unknownView (v : Byte)
  /-- A request whose code is not one of R126: no row of the table (it is dispatched all the same, R129). -/
  | unnamedCode (code : Byte)
  /-- A record whose kind is not one of R127: no row of the table (it is received all the same, 42_cm2dm.md R240, R241). -/
  | unnamedKind (id : Byte)
deriving DecidableEq, Repr

/-- What is decoded follows from where it arrives (30_encoding.md R110, R132): a port operation of an agent, a request that DISP takes from a channel, or a CM2DM6 record. -/
inductive Source where
  | port (a : Agent)
  | request (c : Fin 4)
  | record
deriving DecidableEq, Repr

/-- The handler a wire byte names. -/
def handlerOfByte (b : Byte) : HandlerName :=
  if b = 0 then .pingDM else if b = 1 then .debugNoc else .external b

/-- The wire byte that names a handler. -/
def handlerByte : HandlerName → Byte
  | .pingDM => 0
  | .debugNoc => 1
  | .external id => id

/-- The view a pair of wire bytes names; the queue byte counts for `QSTAT` only. -/
def viewOfBytes (v q : Byte) : Except DecodeError StatView :=
  match v.toNat with
  | 0 => if queueOk q then .ok (.qstat q) else .error (.badQueue q)
  | 1 => .ok .dstat
  | 2 => .ok .txstat
  | 3 => .ok .rxstat
  | 4 => .ok .tmrstat
  | 5 => .ok .gstat
  | 6 => .ok .nocstat
  | 7 => .ok .fstat
  | _ => .error (.unknownView v)

/-- The pair of wire bytes that names a view. -/
def viewBytes : StatView → List Byte
  | .qstat q => [0, q]
  | .dstat => [1, 0]
  | .txstat => [2, 0]
  | .rxstat => [3, 0]
  | .tmrstat => [4, 0]
  | .gstat => [5, 0]
  | .nocstat => [6, 0]
  | .fstat => [7, 0]

/-- The record that operand bytes hold; a wrong length is refused (30_encoding.md R114, R124). -/
def recordOfBytes : List Byte → Except DecodeError Record
  | [id, seq, d0, d1, d2, d3] => .ok ⟨id, seq, Machine.wordOf d0 d1 d2 d3⟩
  | _ => .error .badLength

/-- The ack that operand bytes hold; a wrong length is refused (30_encoding.md R115, R124). -/
def ackOfBytes : List Byte → Except DecodeError Ack
  | [id, seq] => .ok ⟨id, seq⟩
  | _ => .error .badLength

/-- PUSH's operands. -/
def decodePush (a : Agent) : List Byte → Except DecodeError Instr
  | q :: es =>
    if es.length ≠ 32 then .error .badLength
    else if queueOk q then .ok (.push a q (Machine.entryOfBytes es)) else .error (.badQueue q)
  | [] => .error .badLength

/-- POP's operands. -/
def decodePop (a : Agent) : List Byte → Except DecodeError Instr
  | [q] => if queueOk q then .ok (.pop a q) else .error (.badQueue q)
  | _ => .error .badLength

/-- STAT's operands. -/
def decodeStat (a : Agent) : List Byte → Except DecodeError Instr
  | [v, q] => (viewOfBytes v q).map (Instr.stat a)
  | _ => .error .badLength

/-- REG's operands. -/
def decodeReg (a : Agent) : List Byte → Except DecodeError Instr
  | [t, h] => .ok (.reg a t (handlerOfByte h))
  | _ => .error .badLength

/-- POST's operands. -/
def decodePost (a : Agent) : List Byte → Except DecodeError Instr
  | [k, d0, d1, d2, d3] => .ok (.post a k (Machine.wordOf d0 d1 d2 d3))
  | _ => .error .badLength

/-- SETHARV's operands. -/
def decodeSetharv (a : Agent) : List Byte → Except DecodeError Instr
  | [t0, t1, g, s0, s1, e0, e1, pe] =>
    .ok (.setharv a (Machine.halfOf t0 t1) g (Machine.halfOf s0 s1) (Machine.halfOf e0 e1) pe)
  | _ => .error .badLength

/-- An operation without operands. -/
def decodeBare (i : Instr) : List Byte → Except DecodeError Instr
  | [] => .ok i
  | _ => .error .badLength

/-- A port operation: the selector byte, then the operand bytes (30_encoding.md R125, R128). -/
def decodePort (a : Agent) : List Byte → Except DecodeError Instr
  | [] => .error .noBytes
  | op :: ops =>
    match op.toNat with
    | 0x01 => decodePush a ops
    | 0x02 => decodePop a ops
    | 0x03 => decodeStat a ops
    | 0x10 => decodeReg a ops
    | 0x11 => decodeBare (.start a) ops
    | 0x12 => decodeBare (.dpass a) ops
    | 0x20 => decodePost a ops
    | 0x21 => decodeBare (.poll a) ops
    | 0x22 => decodeBare (.readmsg a) ops
    | 0x23 => (ackOfBytes ops).map (Instr.ackin a)
    | 0x24 => (recordOfBytes ops).map (Instr.msgin a)
    | 0x25 => decodeBare (.pingchk a) ops
    | 0x26 => decodeBare (.inittick a) ops
    | 0x30 => decodeBare (.tick a) ops
    | 0x40 => decodeSetharv a ops
    | 0x41 => decodeBare (.compute a) ops
    | 0x42 => decodeBare (.program a) ops
    | 0x43 => decodeBare (.clear a) ops
    | _ => .error (.unknownSelector op)

/-- The command a request's code byte names (30_encoding.md R126). -/
def decodeCommand (c : Fin 4) (code : Byte) (p : Payload) : Except DecodeError Instr :=
  match code.toNat with
  | 0x12 => .ok (.setVoltage c p)
  | 0x21 => .ok (.powerSetting c p)
  | 0x56 => .ok (.triggerReset c p)
  | 0xAC => .ok (.forceFanSpeed c p)
  | 0xC0 => .ok (.pingDM c p)
  | 0xDE => .ok (.debugNocTranslation c p)
  | _ => .error (.unnamedCode code)

/-- The command a request entry of channel `c` holds. -/
def decodeEntry (c : Fin 4) (e : Entry) : Except DecodeError Instr :=
  decodeCommand c (Machine.requestCode e) (Machine.requestPayload e)

/-- The 32 bytes of a request entry of channel `c`. -/
def decodeRequest (c : Fin 4) (bs : List Byte) : Except DecodeError Instr :=
  if bs.length = 32 then decodeEntry c (Machine.entryOfBytes bs) else .error .badLength

/-- The kind a record's `msg_id` names under a numbering `ids` (30_encoding.md R127; 00_scope.md R10 `KIND_ID`). -/
def decodeKind (ids : KindIds) (m : Record) : Except DecodeError Instr :=
  if m.id = 0 then .ok (.nullMsg m.seq m.data)
  else if m.id = ids.resetReq then .ok (.resetReq m.seq m.data)
  else if m.id = ids.ping then .ok (.ping m.seq m.data)
  else if m.id = ids.fanSpeedUpdate then .ok (.fanSpeedUpdate m.seq m.data)
  else if m.id = ids.ready then .ok (.ready m.seq m.data)
  else if m.id = ids.autoResetTimeoutUpdate then .ok (.autoResetTimeoutUpdate m.seq m.data)
  else if m.id = ids.heartbeatUpdate then .ok (.heartbeatUpdate m.seq m.data)
  else if m.id = ids.forcedFanSpeedUpdate then .ok (.forcedFanSpeedUpdate m.seq m.data)
  else if m.id = ids.pingV2 then .ok (.pingV2 m.seq m.data)
  else .error (.unnamedKind m.id)

/-- The kind that the bytes of a CM2DM6 record hold. -/
def decodeRecord (ids : KindIds) (bs : List Byte) : Except DecodeError Instr :=
  (recordOfBytes bs).bind (decodeKind ids)

/-- The decoder: total on any bytes, by where they arrive. -/
def decode (ids : KindIds) : Source → List Byte → Except DecodeError Instr
  | .port a, bs => decodePort a bs
  | .request c, bs => decodeRequest c bs
  | .record, bs => decodeRecord ids bs

/-- Where an instruction arrives. -/
def sourceOf : Instr → Source
  | .push a _ _ | .pop a _ | .stat a _ | .reg a _ _ | .start a | .dpass a | .post a _ _ | .poll a | .readmsg a => .port a
  | .ackin a _ | .msgin a _ | .pingchk a | .inittick a | .tick a | .setharv a _ _ _ _ _ => .port a
  | .compute a | .program a | .clear a => .port a
  | .setVoltage c _ | .powerSetting c _ | .triggerReset c _ | .forceFanSpeed c _ | .pingDM c _ | .debugNocTranslation c _ => .request c
  | .nullMsg _ _ | .resetReq _ _ | .ping _ _ | .fanSpeedUpdate _ _ | .ready _ _ | .autoResetTimeoutUpdate _ _ => .record
  | .heartbeatUpdate _ _ | .forcedFanSpeedUpdate _ _ | .pingV2 _ _ => .record

/-- The encoder: the bytes of an instruction, written from 30_encoding.md R125 to R127 under a numbering of the kinds. -/
def encode (ids : KindIds) : Instr → List Byte
  | .push _ q e => 0x01 :: q :: Machine.entryBytes e
  | .pop _ q => [0x02, q]
  | .stat _ v => 0x03 :: viewBytes v
  | .reg _ t h => [0x10, t, handlerByte h]
  | .start _ => [0x11]
  | .dpass _ => [0x12]
  | .post _ k v => 0x20 :: k :: Machine.wordBytes v
  | .poll _ => [0x21]
  | .readmsg _ => [0x22]
  | .ackin _ k => 0x23 :: Machine.ackBytes k
  | .msgin _ m => 0x24 :: Machine.recordBytes m
  | .pingchk _ => [0x25]
  | .inittick _ => [0x26]
  | .tick _ => [0x30]
  | .setharv _ tb g se eb pe => 0x40 :: (Machine.halfBytes tb ++ g :: (Machine.halfBytes se ++ (Machine.halfBytes eb ++ [pe])))
  | .compute _ => [0x41]
  | .program _ => [0x42]
  | .clear _ => [0x43]
  | .setVoltage _ p => Machine.entryBytes (Machine.requestEntry 0x12 p)
  | .powerSetting _ p => Machine.entryBytes (Machine.requestEntry 0x21 p)
  | .triggerReset _ p => Machine.entryBytes (Machine.requestEntry 0x56 p)
  | .forceFanSpeed _ p => Machine.entryBytes (Machine.requestEntry 0xAC p)
  | .pingDM _ p => Machine.entryBytes (Machine.requestEntry 0xC0 p)
  | .debugNocTranslation _ p => Machine.entryBytes (Machine.requestEntry 0xDE p)
  | .nullMsg seq d => Machine.recordBytes ⟨0, seq, d⟩
  | .resetReq seq d => Machine.recordBytes ⟨ids.resetReq, seq, d⟩
  | .ping seq d => Machine.recordBytes ⟨ids.ping, seq, d⟩
  | .fanSpeedUpdate seq d => Machine.recordBytes ⟨ids.fanSpeedUpdate, seq, d⟩
  | .ready seq d => Machine.recordBytes ⟨ids.ready, seq, d⟩
  | .autoResetTimeoutUpdate seq d => Machine.recordBytes ⟨ids.autoResetTimeoutUpdate, seq, d⟩
  | .heartbeatUpdate seq d => Machine.recordBytes ⟨ids.heartbeatUpdate, seq, d⟩
  | .forcedFanSpeedUpdate seq d => Machine.recordBytes ⟨ids.forcedFanSpeedUpdate, seq, d⟩
  | .pingV2 seq d => Machine.recordBytes ⟨ids.pingV2, seq, d⟩

/-- How many bytes a port operation has, selector included; 0 for a selector that R125 does not list. -/
def portLength (op : Byte) : Nat :=
  match op.toNat with
  | 0x01 => 34
  | 0x02 => 2
  | 0x03 => 3
  | 0x10 => 3
  | 0x20 => 6
  | 0x23 => 3
  | 0x24 => 7
  | 0x40 => 9
  | 0x11 | 0x12 | 0x21 | 0x22 | 0x25 | 0x26 | 0x30 | 0x41 | 0x42 | 0x43 => 1
  | _ => 0

/-- The agent of 30_encoding.md R125 for a port operation; for PUSH and POP, the producer or consumer of the queue named (40_queue.md R162). -/
def defaultAgent (op q : Byte) : Agent :=
  match op.toNat with
  | 0x01 => if q.toNat < 4 then .transport else .loop
  | 0x02 => if q.toNat < 4 then .loop else .transport
  | 0x22 | 0x23 | 0x24 => .transport
  | 0x30 => .timebase
  | _ => .loop

/-- The first `(nbits + 7) / 8` bytes of an instruction whose bits are `w`, bit 0 the least significant bit of byte 0. -/
def wordBytesOf (nbits w : Nat) : List Byte :=
  (List.range ((nbits + 7) / 8)).map (fun k => BitVec.ofNat 8 (w >>> (8 * k)))

/-- `bs` with zero bytes added up to `n` bytes. -/
def padBytes (n : Nat) (bs : List Byte) : List Byte := bs ++ List.replicate (n - bs.length) 0

/-- A table word read as a port operation of its default agent. -/
def tablePort (bs : List Byte) : Agent × List Byte :=
  (defaultAgent (bs.getD 0 0) (bs.getD 1 0), padBytes (portLength (bs.getD 0 0)) bs)

/-- The order in which a table word is tried against the formats. A word of exactly one format's length is that format first; a shorter word is a port operation if its selector is one, else a request, else a record. DESIGN CHOICE: the table gives rows of three formats the same 8 bits (notes/assumptions/3.md). -/
def tableSource (nbits w : Nat) : Option Source :=
  let bs := wordBytesOf nbits w
  let port := (decodePort (tablePort bs).1 (tablePort bs).2).toOption.map (fun _ => Source.port (tablePort bs).1)
  let req := (decodeRequest 0 (padBytes 32 bs)).toOption.map (fun _ => Source.request 0)
  let rec' := (decodeRecord KindIds.reference (padBytes 6 bs)).toOption.map (fun _ => Source.record)
  if nbits = 48 then (rec'.or port).or req
  else if nbits = 256 then (req.or port).or rec'
  else (port.or req).or rec'

/-- The bytes of a table word in the format it is read in. -/
def tableBytes (nbits w : Nat) : Source → List Byte
  | .port _ => (tablePort (wordBytesOf nbits w)).2
  | .request _ => padBytes 32 (wordBytesOf nbits w)
  | .record => padBytes 6 (wordBytesOf nbits w)

/-- The instruction the decoder reads from a word of the opcode table, under the reference numbering of the kinds. -/
def decodeTableWord (nbits w : Nat) : Option Instr :=
  match tableSource nbits w with
  | none => none
  | some src => (decode KindIds.reference src (tableBytes nbits w src)).toOption

end Sys2Proof
end

