-- ==== Sys2Proof/Machine/Xlat.lean ====
section
/-! DEFINITION. The coordinate-permutation computation of the NOC engine, as functions of the harvest registers and the parameters (43_noc.md R276 to R290). -/

namespace Sys2Proof.Machine

/-- One ring's translation table `S.noc.T[r]` (10_state.md R52). -/
structure Table where
  enable : Bool
  xTable : Vector Byte 32
  yTable : Vector Byte 32
  colMask : Word
  rowMask : Word
  logical : Vector (Vector Half 12) 17
deriving DecidableEq, Repr

/-- The harvest registers (10_state.md R51). -/
structure Harvest where
  tensixBad : Half
  gddrBad : Byte
  skipEth : Half
  ethBad : Half
  pcieEn : Byte
  pcieOverride : Bool
  pcieSel : Bool
deriving DecidableEq, Repr

/-- The classes whose precondition COMPUTE checks (43_noc.md R287). -/
inductive TileClass where
  | tensix
  | gddr
deriving DecidableEq, Repr

/-- `T.x_table[i]`. -/
def Table.xAt (t : Table) (i : Nat) : Nat := (vget t.xTable i 0).toNat

/-- `T.y_table[i]`. -/
def Table.yAt (t : Table) (i : Nat) : Nat := (vget t.yTable i 0).toNat

/-- `T.logical[x][y]`. -/
def Table.logicalAt (t : Table) (x y : Nat) : Half := vget (vget t.logical x (Vector.replicate 12 0)) y 0

/-- `T(px, py)`, the translation of a pre-translation coordinate (00_scope.md R18). -/
def Table.translate (t : Table) (px py : Nat) : Nat × Nat := (t.xAt px, t.yAt py)

/-- `T.x_table[i] <- v`. -/
def Table.setX (t : Table) (i v : Nat) : Table := { t with xTable := vset t.xTable i (BitVec.ofNat 8 v) }

/-- `T.y_table[i] <- v`. -/
def Table.setY (t : Table) (i v : Nat) : Table := { t with yTable := vset t.yTable i (BitVec.ofNat 8 v) }

/-- `T.logical[x][y] <- v`. -/
def Table.setLogical (t : Table) (x y : Nat) (v : Half) : Table :=
  { t with logical := vset t.logical x (vset (vget t.logical x (Vector.replicate 12 0)) y v) }

/-- IDENTITY (43_noc.md R276). -/
def identityTable : Table where
  enable := false
  xTable := vgen 32 (fun i => BitVec.ofNat 8 i)
  yTable := vgen 32 (fun i => BitVec.ofNat 8 i)
  colMask := 0
  rowMask := 0
  logical := vgen 17 (fun x => vgen 12 (fun y => packCoord x y))

/-- The compute columns in the order in which the slots take them: the good ones ascending, then the bad ones descending (43_noc.md R277). -/
def tensixOrder (bad : Half) : List Nat :=
  ((List.range 14).filter (fun i => !bad.getLsbD i)).map (fun i => tensixCols.getD i 0)
    ++ ((List.range 14).reverse.filter (fun i => bad.getLsbD i)).map (fun i => tensixCols.getD i 0)

/-- TENSIX_X (43_noc.md R277). -/
def tensixX (bad : Half) (t : Table) : Table :=
  (tensixCols.zip (tensixOrder bad)).foldl (fun t p => t.setX p.1 p.2) t

/-- The half of the bad DRAM channel and its position in its column; half 1 and no position where `g` names no channel (43_noc.md R279). -/
def gddrHalf (geo : Geometry) (g : Byte) : Nat × Option Nat :=
  if g.toNat < geo.nGddr then (g.toNat / geo.gddrPerCol, some (g.toNat % geo.gddrPerCol)) else (1, none)

/-- The DRAM positions in row order, the bad one last (43_noc.md R280). -/
def dramPositions (geo : Geometry) (bad : Option Nat) : List Nat :=
  (List.range geo.gddrPerCol).filter (fun p => decide (some p ≠ bad)) ++ bad.toList

/-- DRAM_Y (43_noc.md R280). -/
def dramY (geo : Geometry) (bad : Option Nat) (t : Table) : Table :=
  (List.range geo.gddrPerCol).foldl (fun t k =>
    (List.range geo.gddrRowsPer).foldl (fun t r =>
      t.setY (geo.dramPreY0 + k * geo.gddrRowsPer + r) ((dramPositions geo bad).getD k 0 * geo.gddrRowsPer + r)) t) t

/-- DRAM_XY (43_noc.md R279). -/
def dramXY (geo : Geometry) (g : Byte) (t : Table) : Table :=
  let half := gddrHalf geo g
  dramY geo half.2
    (if half.1 = 0 then (t.setX geo.dramPreXW geo.gddrColE).setX geo.dramPreXE geo.gddrColW
     else (t.setX geo.dramPreXW geo.gddrColW).setX geo.dramPreXE geo.gddrColE)

/-- The Ethernet lanes that are not skipped, in physical order (43_noc.md R282). -/
def ethLanes (geo : Geometry) (skip : Half) : List Nat :=
  (List.range geo.ethX.length).filter (fun l => !skip.getLsbD l)

/-- ETH_X (43_noc.md R282). -/
def ethXY (geo : Geometry) (skip : Half) (t : Table) : Table :=
  let lanes := ethLanes geo skip
  ((List.range (min lanes.length geo.ethSlots)).foldl (fun t j =>
    t.setX (geo.ethPreX0 + j) (geo.ethX.getD (lanes.getD j 0) 0)) t).setY geo.ethPreY geo.ethRow

/-- One box of the sweep: its pre-translation ranges and its target (43_noc.md R283). -/
structure Box where
  preX : List Nat
  preY : List Nat
  targetX : List Nat
  targetY : List Nat
deriving DecidableEq, Repr

/-- The physical DRAM rows (43_noc.md R283). -/
def dramRows (geo : Geometry) : List Nat := List.range (geo.gddrPerCol * geo.gddrRowsPer)

/-- `a` and `b`, the smaller first: "for px in PX ascending" of a range of two. -/
def ascending2 (a b : Nat) : List Nat := [min a b, max a b]

/-- The boxes, in the order of 43_noc.md R283. -/
def sweepBoxes (geo : Geometry) : List Box :=
  [⟨tensixCols, geo.tensixRows, tensixCols, geo.tensixRows⟩,
   ⟨ascending2 geo.dramPreXW geo.dramPreXE, geo.dramPreYs, [geo.gddrColW, geo.gddrColE], dramRows geo⟩,
   ⟨List.range' geo.ethPreX0 geo.ethSlots, [geo.ethPreY], geo.ethX, [geo.ethRow]⟩]

/-- One pre-translation coordinate of a box: its post coordinate's logical entry, if that falls inside the target (43_noc.md R283). -/
def sweepAt (b : Box) (px py : Nat) (t : Table) : Table :=
  if t.xAt px ∈ b.targetX ∧ t.yAt py ∈ b.targetY then t.setLogical (t.xAt px) (t.yAt py) (packCoord px py) else t

/-- One box of the sweep, x ascending and y ascending within it (43_noc.md R283). -/
def sweepBox (b : Box) (t : Table) : Table :=
  b.preX.foldl (fun t px => b.preY.foldl (fun t py => sweepAt b px py t) t) t

/-- SWEEP (43_noc.md R283). -/
def sweep (geo : Geometry) (t : Table) : Table := (sweepBoxes geo).foldl (fun t b => sweepBox b t) t

/-- The PCIe instance that is mapped (43_noc.md R281). -/
def pcieInstance (h : Harvest) : Nat :=
  if h.pcieOverride then (if h.pcieSel then 1 else 0)
  else if h.pcieEn.getLsbD 0 then 0
  else if h.pcieEn.getLsbD 1 then 1
  else 0

/-- `PCIE_PHYS[i]` (43_noc.md R271). -/
def pciePhys (geo : Geometry) (i : Nat) : Nat × Nat := if i = 0 then geo.pciePhys0 else geo.pciePhys1

/-- One fixed mapping: its pre coordinate goes to its node, and the node's logical entry names it (43_noc.md R281, R284). -/
def fixNode (n : FixedNode) (t : Table) : Table :=
  ((t.setX n.preX n.physX).setY n.preY n.physY).setLogical n.physX n.physY (packCoord n.preX n.preY)

/-- The PCIe mapping as a fixed mapping (43_noc.md R281). -/
def pcieNode (geo : Geometry) (h : Harvest) : FixedNode :=
  ⟨geo.pciePreX, geo.pciePreY, (pciePhys geo (pcieInstance h)).1, (pciePhys geo (pcieInstance h)).2⟩

/-- FIXED: PCIe first, then `FIXED_NODES` in list order (43_noc.md R281, R284). -/
def fixedMappings (geo : Geometry) (nodes : List FixedNode) (h : Harvest) (t : Table) : Table :=
  nodes.foldl (fun t n => fixNode n t) (fixNode (pcieNode geo h) t)

/-- `BIT(i)` (00_scope.md R17). -/
def bit (i : Nat) : Word := 1#32 <<< i

/-- The part of `col_mask` that does not depend on harvesting (43_noc.md R285, R290). -/
def blindColMask (geo : Geometry) : Word := bit geo.gddrColW ||| bit geo.gddrColE ||| bit geo.mgmtCol

/-- `row_mask` (43_noc.md R285, R290). -/
def blindRowMask (geo : Geometry) : Word := bit geo.ethRow ||| bit geo.pcieRow

/-- The harvested compute columns as a mask (43_noc.md R285). -/
def tensixMask (bad : Half) : Word :=
  (List.range 14).foldl (fun m i => if bad.getLsbD i then m ||| bit (tensixCols.getD i 0) else m) 0

/-- MASKS (43_noc.md R285). -/
def setMasks (geo : Geometry) (bad : Half) (t : Table) : Table :=
  { t with colMask := blindColMask geo ||| tensixMask bad, rowMask := blindRowMask geo }

/-- The point reflection of a table value; a value outside the grid is copied (43_noc.md R286). -/
def reflect (size : Nat) (v : Byte) : Byte := if v.toNat < size then BitVec.ofNat 8 (size - 1 - v.toNat) else v

/-- The point reflection of a mask (43_noc.md R286). -/
def reflectMask (size : Nat) (m : Word) : Word :=
  (List.range size).foldl (fun r x => if m.getLsbD x then r ||| bit (size - 1 - x) else r) 0

/-- MIRROR (43_noc.md R286). -/
def mirror (t : Table) : Table where
  enable := t.enable
  xTable := vgen 32 (fun i => reflect nocXSize (vget t.xTable i 0))
  yTable := vgen 32 (fun i => reflect nocYSize (vget t.yTable i 0))
  colMask := reflectMask nocXSize t.colMask
  rowMask := reflectMask nocYSize t.rowMask
  logical := vgen 17 (fun x => vgen 12 (fun y => t.logicalAt (16 - x) (11 - y)))

/-- Ring 0's table after CLEAR (43_noc.md R290), which is also its reset value (10_state.md R52). -/
def clearedTable (geo : Geometry) : Table :=
  { identityTable with colMask := blindColMask geo, rowMask := blindRowMask geo }

/-- Ring 0's table as COMPUTE's pseudocode gives it (43_noc.md R275). -/
def computedTable (geo : Geometry) (nodes : List FixedNode) (h : Harvest) : Table :=
  let t := sweep geo (ethXY geo h.skipEth (dramXY geo h.gddrBad (tensixX h.tensixBad identityTable)))
  { setMasks geo h.tensixBad (fixedMappings geo nodes h t) with enable := true }

/-- PRECOND: the violated classes, TENSIX before GDDR (43_noc.md R287; 60_exceptions.md R343). -/
def violatedClasses (p : Params) (h : Harvest) : List TileClass :=
  (if h.tensixBad.extractLsb' 0 14 = 0x3FFF then [TileClass.tensix] else [])
    ++ (if h.gddrBad ≠ p.gddrNone ∧ p.geo.nGddr ≤ h.gddrBad.toNat then [TileClass.gddr] else [])

/-- The `x_table` indices of a class (43_noc.md R287). -/
def classXs (geo : Geometry) : TileClass → List Nat
  | .tensix => tensixCols
  | .gddr => [geo.dramPreXW, geo.dramPreXE]

/-- The `y_table` indices of a class that a violation draws (43_noc.md R287). -/
def classYs (geo : Geometry) : TileClass → List Nat
  | .tensix => []
  | .gddr => geo.dramPreYs

/-- The target of a class as ring-0 nodes (43_noc.md R283, R287). -/
def classNodes (geo : Geometry) : TileClass → List (Nat × Nat)
  | .tensix => tensixCols.flatMap (fun x => geo.tensixRows.map (fun y => (x, y)))
  | .gddr => [geo.gddrColW, geo.gddrColE].flatMap (fun x => (dramRows geo).map (fun y => (x, y)))

/-- The coordinate of a node on ring `r`: ring 1's is the point reflection of ring 0's (43_noc.md R286, R288). -/
def ringNode (r : Nat) (n : Nat × Nat) : Nat × Nat :=
  if r = 0 then n else (nocXSize - 1 - n.1, nocYSize - 1 - n.2)

/-- A violated class's entries of ring `r` become a draw: free values numbered by `d` (43_noc.md R287; notes/assumptions/11.md). -/
def drawClass (geo : Geometry) (d r : Nat) (c : TileClass) (t : Table) : Table :=
  let t1 := (classXs geo c).foldl (fun t i => { t with xTable := vset t.xTable i (Config.drawX d r i) }) t
  let t2 := (classYs geo c).foldl (fun t i => { t with yTable := vset t.yTable i (Config.drawY d r i) }) t1
  ((classNodes geo c).map (ringNode r)).foldl (fun t n => t.setLogical n.1 n.2 (Config.drawLogical d r n.1 n.2)) t2

/-- Ring `r`'s table with the entries of every violated class drawn (43_noc.md R287). -/
def drawClasses (geo : Geometry) (d r : Nat) (cs : List TileClass) (t : Table) : Table :=
  cs.foldl (fun t c => drawClass geo d r c t) t

/-- `NODEREC`, the record PROGRAM sends to one node (30_encoding.md R122). -/
structure NodeRec where
  xTable : Vector Byte 32
  yTable : Vector Byte 32
  colMask : Word
  rowMask : Word
  lcoord : Half
  en : Option Bool
deriving DecidableEq, Repr

/-- The record of node (x, y) of ring `r`: the node is named by its physical (ring-0) coordinate, and the ARC node's enable is left alone (43_noc.md R288, R289). -/
def nodeRec (geo : Geometry) (r x y : Nat) (t : Table) : NodeRec where
  xTable := t.xTable
  yTable := t.yTable
  colMask := t.colMask
  rowMask := t.rowMask
  lcoord := t.logicalAt (ringNode r (x, y)).1 (ringNode r (x, y)).2
  en := if (x, y) = geo.arc then none else some t.enable

/-- The nodes in programming order: x ascending, y ascending within each x (43_noc.md R289). -/
def nodeOrder : List (Nat × Nat) := (List.range nocXSize).flatMap (fun x => (List.range nocYSize).map (fun y => (x, y)))

end Sys2Proof.Machine
end

