-- ==== Sys2Proof/Machine/State.lean ====
section
/-! DEFINITION. The block's state (10_state.md R30 to R56), the model's own fields beside it, and the state after reset (70_reset_and_hazards.md R371). -/

namespace Sys2Proof.Machine

/-- A queue's two pointers, each a nat in 0..2C-1 (10_state.md R32). -/
structure QueuePtrs where
  wp : Nat
  rp : Nat
deriving DecidableEq, Repr

/-- The queue storage (20_memory.md R80) as a sparse list of bytes in rising order of address. An address that is not listed has no value (10_state.md R33). -/
abbrev Memory := List Host.Cell

/-- The dispatch phase (10_state.md R37). -/
inductive Phase where
  | init
  | run
deriving DecidableEq, Repr

/-- DISP: the dispatch table and the phase (10_state.md R36, R37). -/
structure Disp where
  table : Vector (Option HandlerName) 256
  phase : Phase
deriving DecidableEq, Repr

/-- The in-flight record (10_state.md R40). -/
structure Inflight where
  valid : Bool
  kind : Byte
  seq : Byte
  data : Word
deriving DecidableEq, Repr

/-- CM2DM's transmit half (10_state.md R38 to R42). The per-kind arrays have a place for each u8 kind; the first `KIND_COUNT` are the spec's. -/
structure Tx where
  pending : Vector Bool 256
  value : Vector Word 256
  inflight : Inflight
  seq : Byte
  nextIdRr : Nat
deriving DecidableEq, Repr

/-- CM2DM's receive half (10_state.md R43 to R46). -/
structure Rx where
  lastSeqValid : Bool
  lastSeq : Byte
  dupLogValid : Bool
  dupLogSeq : Byte
  value : Vector Word 256
  hbValid : Bool
  lastHb : Word
deriving DecidableEq, Repr

/-- The outcome handed to a waiting ping check (10_state.md R49). -/
inductive PingResult where
  | alive
  | timeout
deriving DecidableEq, Repr

/-- The timers and the ping semaphore (10_state.md R47 to R49). The last field is the model's own. -/
structure Tmr where
  wdArmed : Bool
  wdTimeout : Word
  wdRemaining : Word
  rstPending : Bool
  rstRemaining : Word
  rstArg : Word
  rstOut : Bool
  sem : Word
  pingWait : Bool
  pingRemaining : Word
  pingResult : PingResult
  /-- Some check has ended, so that `pingResult` holds a value (70_reset_and_hazards.md R372; notes/assumptions/7.md). -/
  pingHasResult : Bool
deriving DecidableEq, Repr

/-- The init-handshake gate (10_state.md R50). -/
structure Gate where
  needsInit : Bool
deriving DecidableEq, Repr

/-- The NOC engine (10_state.md R51 to R53). -/
structure Noc where
  harvValid : Bool
  harv : Harvest
  ring0 : Table
  ring1 : Table
  precondViolated : Bool
deriving DecidableEq, Repr

/-- The fault codes (60_exceptions.md R342). -/
inductive FaultCode where
  | regAfterStart
  | dupHandler
  | dispatchBeforeStart
  | badKind
  | precond
deriving DecidableEq, Repr

/-- A sticky fault record `{code, op, info}` (10_state.md R54; 60_exceptions.md R340). -/
structure FaultRec where
  code : FaultCode
  op : Byte
  info : Byte
deriving DecidableEq, Repr

/-- The output events (10_state.md R56). -/
inductive Event where
  | nodeWrite (r x y : Nat) (rec : NodeRec)
  | nodeEnable (r x y : Nat) (en : Bool)
  | resetOut (arg : Word)
  | ackOut (kind seq : Byte)
  | dupLog (seq : Byte)
  | kindUpdate (kind : Byte) (data : Word)
  | pingGive
  | handlerCall (t : Byte)
  | rspDropped (c : Fin 4)
  | initStep (i : Nat) (ok : Bool)
deriving DecidableEq, Repr

/-- What STAT reads (10_state.md R59). A field that holds no value reads as `none`; a fault record reads as its code's number, `op` and `info` (10_state.md R54). -/
inductive ViewRec where
  | qstat (wp rp occ : Nat) (empty full : Bool)
  | dstat (phase : Phase) (registered : List Bool)
  | txstat (pending : List Bool) (valid : Bool) (kind seqInFlight : Option Byte) (data : Option Word) (seq : Byte) (nextIdRr : Nat)
  | rxstat (lastSeqValid : Bool) (lastSeq : Option Byte) (dupLogValid : Bool) (dupLogSeq : Option Byte)
  | tmrstat (wdArmed : Bool) (wdTimeout wdRemaining : Word) (rstPending : Bool) (rstRemaining rstArg : Word) (rstOut : Bool)
      (sem : Word) (pingWait : Bool) (pingRemaining : Word) (pingResult : Option PingResult)
  | gstat (needsInit : Bool)
  | nocstat (harvValid : Bool) (harv : Option Harvest) (precondViolated : Bool)
  | fstat (fault : List (Nat × Byte × Byte)) (refused : Bool)
deriving DecidableEq, Repr

/-- The results of operations (30_encoding.md R135). -/
inductive Result where
  | ok
  | full
  | none
  | entry (e : Entry)
  | view (v : ViewRec)
  | record (m : Record)
  | ack (k : Ack)
  | alive
  | timeout
deriving DecidableEq, Repr

/-- The four outcomes of a transaction (00_scope.md R15). -/
inductive TxnOutcome where
  | result (r : Result)
  | fault (f : FaultRec)
  | refusal
  | hold
deriving DecidableEq, Repr

/-- LOOP's place in its own sequence (41_dispatch.md R185, R190; 42_cm2dm.md R260). -/
inductive LoopPos where
  /-- LOOP may start a transaction. -/
  | idle
  /-- A DPASS is open and `DSTEP(c)` is LOOP's next transaction. -/
  | pass (c : Fin 4)
  /-- LOOP holds in a PINGCHK of its own. -/
  | heldCheck
  /-- LOOP holds in the PINGCHK of `H_PINGDM`, inside `DSTEP(c)`. -/
  | heldDispatch (c : Fin 4)
deriving DecidableEq, Repr

/-- What may arrive at the block, in the order in which it is to happen (20_memory.md R93). -/
inductive Input where
  /-- An agent starts a port operation, given as its bytes. -/
  | port (a : Agent) (bytes : List Byte)
  /-- The RESET input (70_reset_and_hazards.md R370). -/
  | reset
  /-- LOOP's turn: the next DSTEP of an open DPASS, or what follows a lifted hold (41_dispatch.md R185; 42_cm2dm.md R260). The inputs before it happen before it, those after it later. -/
  | turn
  /-- The world outside the block sets the external state `G` to `g` (R64; notes/assumptions/10.md). No transaction of the block. -/
  | world (g : Nat)
deriving DecidableEq, Repr

/-- The block's state `S` (10_state.md R30), and from `cfg` on the model's own fields. -/
structure State where
  /-- `S.rmq[q].wp`, `.rp`; queues 0..3 are REQ0..REQ3 and 4..7 are RSP0..RSP3 (R31, R32). -/
  rmq : Vector QueuePtrs 8
  /-- `S.rmq[q].slot[i]` (R33). -/
  mem : Memory
  /-- `S.disp`. -/
  disp : Disp
  /-- `S.tx`. -/
  tx : Tx
  /-- `S.rx`. -/
  rx : Rx
  /-- `S.tmr`. -/
  tmr : Tmr
  /-- `S.gate`. -/
  gate : Gate
  /-- `S.noc`. -/
  noc : Noc
  /-- `S.fault`, a set: no record stands twice (R54). -/
  fault : List FaultRec
  /-- `S.refused` (R55). -/
  refused : Bool
  /-- `S.events`, oldest first, each with its number (R56). -/
  events : List (Nat × Event)
  /-- The parameters (00_scope.md R10). No step changes them. -/
  cfg : Params
  /-- The inputs that the agents have offered and the block has not taken. -/
  inbox : List Input
  /-- LOOP's place in an open DPASS or a hold. -/
  loop : LoopPos
  /-- The agent and the outcome of the last transaction; of a RESET, OK, by choice (notes/assumptions/8.md). -/
  out : Option (Agent × TxnOutcome)
  /-- The external global state `G`, coded as a number (R64). It changes through a handler, an init step, or the input `world`, between two transactions. DESIGN CHOICE: the spec names no writer of `G` but the first two (notes/assumptions/10.md). -/
  ext : Nat
  /-- How many draws of 43_noc.md R287 there have been. -/
  draws : Nat
deriving DecidableEq, Repr

/-- Why the model stops. -/
inductive Fault where
  /-- Raised by a POP, or by the POP inside a DSTEP, of a queue slot that nothing has written since reset ("a read of it before a write is a fault in the model, never a value", 10_state.md). Safe: no reachable transaction reads one (70_reset_and_hazards.md R372). -/
  | unwrittenSlot (q slot : Nat)
deriving DecidableEq, Repr

/-- Why the model refuses. The spec's own refusal (60_exceptions.md R341) is not one of these: it is a next state with `refused` set. -/
inductive Refusal where
  /-- Raised by exec's arm of an instruction that has no meaning yet. Safe: the model stops. No arm raises it. -/
  | notModelled (mnemonic : String)
deriving DecidableEq, Repr

/-- The block right after power-on with the parameters `p` (70_reset_and_hazards.md R371). Registers that R371 gives no value hold 0, and `ping_result` holds TIMEOUT: DESIGN CHOICE, unsafe (notes/assumptions/7.md). -/
def State.powerOn (p : Params) : State where
  rmq := Vector.replicate 8 ⟨0, 0⟩
  mem := []
  disp := ⟨Vector.replicate 256 none, .init⟩
  tx := ⟨Vector.replicate 256 false, Vector.replicate 256 0, ⟨false, 0, 0, 0⟩, 0, 0⟩
  rx := ⟨false, 0, false, 0, Vector.replicate 256 0, false, 0⟩
  tmr := ⟨false, 0, 0, false, 0, 0, false, 0, false, 0, .timeout, false⟩
  gate := ⟨true⟩
  noc := ⟨false, ⟨0, 0, 0, 0, 0, false, false⟩, clearedTable p.geo, mirror (clearedTable p.geo), false⟩
  fault := []
  refused := false
  events := []
  cfg := p
  inbox := []
  loop := .idle
  out := none
  ext := 0
  draws := 0

/-- The machine right after reset, with the reference parameters. -/
def State.reset : State := State.powerOn Params.reference

end Sys2Proof.Machine
end

