-- ==== Sys2Proof/Machine/Flags.lean ====
section
/-! DEFINITION. What is derived from the state and not stored: queue flags, the status views and the level outputs (10_state.md R34, R59; 60_exceptions.md R350). -/

namespace Sys2Proof.Machine

/-- `REQc` as a queue number (30_encoding.md R111). -/
def reqQueue (c : Fin 4) : Fin 8 := ⟨c.val, by omega⟩

/-- `RSPc` as a queue number (30_encoding.md R111). -/
def rspQueue (c : Fin 4) : Fin 8 := ⟨4 + c.val, by omega⟩

/-- `producer(q)` (40_queue.md R162). -/
def producer (q : Fin 8) : Agent := if q.val < 4 then .transport else .loop

/-- `consumer(q)` (40_queue.md R162). -/
def consumer (q : Fin 8) : Agent := if q.val < 4 then .loop else .transport

/-- `occ(q) = (wp - rp) mod 2C` (10_state.md R34). -/
def occupancy (cap : Nat) (p : QueuePtrs) : Nat := (((p.wp : Int) - p.rp) % (2 * cap : Nat)).toNat

/-- `occ(q)` of a state (10_state.md R34). -/
def State.occ (s : State) (q : Fin 8) : Nat := occupancy s.cfg.queueCapacity s.rmq[q]

/-- `empty(q)` (10_state.md R34). -/
def State.isEmpty (s : State) (q : Fin 8) : Bool := decide (s.occ q = 0)

/-- `full(q)` (10_state.md R34). -/
def State.isFull (s : State) (q : Fin 8) : Bool := decide (s.occ q = s.cfg.queueCapacity)

/-- The level output `rst_out` (60_exceptions.md R350). -/
def State.rstOutLevel (s : State) : Bool := s.tmr.rstOut

/-- The level output `req_nonempty[c]` (60_exceptions.md R350). -/
def State.reqNonempty (s : State) (c : Fin 4) : Bool := !s.isEmpty (reqQueue c)

/-- The level output `rsp_nonempty[c]` (60_exceptions.md R350). -/
def State.rspNonempty (s : State) (c : Fin 4) : Bool := !s.isEmpty (rspQueue c)

/-- The level output `tx_valid` (60_exceptions.md R350). -/
def State.txValid (s : State) : Bool := s.tx.inflight.valid

/-- `some x` where the field holds a value, else `none` (10_state.md: a field with no value holds nothing a reader may see). -/
def ifValid {α : Type} (valid : Bool) (x : α) : Option α := if valid then some x else none

/-- `QSTAT(q)` (10_state.md R59). -/
def State.qstat (s : State) (q : Fin 8) : ViewRec :=
  .qstat s.rmq[q].wp s.rmq[q].rp (s.occ q) (s.isEmpty q) (s.isFull q)

/-- `DSTAT` (10_state.md R59). -/
def State.dstat (s : State) : ViewRec := .dstat s.disp.phase (s.disp.table.toList.map Option.isSome)

/-- `TXSTAT` (10_state.md R59): `pending` has `KIND_COUNT` bits, and the in-flight fields hold no value while `valid` is 0 (R40). -/
def State.txstat (s : State) : ViewRec :=
  .txstat ((List.range s.cfg.kindCount).map (fun k => vget s.tx.pending k false)) s.tx.inflight.valid
    (ifValid s.tx.inflight.valid s.tx.inflight.kind) (ifValid s.tx.inflight.valid s.tx.inflight.seq)
    (ifValid s.tx.inflight.valid s.tx.inflight.data) s.tx.seq s.tx.nextIdRr

/-- `RXSTAT` (10_state.md R59). -/
def State.rxstat (s : State) : ViewRec :=
  .rxstat s.rx.lastSeqValid (ifValid s.rx.lastSeqValid s.rx.lastSeq) s.rx.dupLogValid (ifValid s.rx.dupLogValid s.rx.dupLogSeq)

/-- `TMRSTAT` (10_state.md R59): `ping_result` holds no value before a check has ended (70_reset_and_hazards.md R372). -/
def State.tmrstat (s : State) : ViewRec :=
  .tmrstat s.tmr.wdArmed s.tmr.wdTimeout s.tmr.wdRemaining s.tmr.rstPending s.tmr.rstRemaining s.tmr.rstArg s.tmr.rstOut
    s.tmr.sem s.tmr.pingWait s.tmr.pingRemaining (ifValid s.tmr.pingHasResult s.tmr.pingResult)

/-- `GSTAT` (10_state.md R59). -/
def State.gstat (s : State) : ViewRec := .gstat s.gate.needsInit

/-- `NOCSTAT` (10_state.md R59): the harvest registers hold no value while `harv_valid` is 0 (R51). -/
def State.nocstat (s : State) : ViewRec :=
  .nocstat s.noc.harvValid (ifValid s.noc.harvValid s.noc.harv) s.noc.precondViolated

/-- The number of a fault code (60_exceptions.md R342). -/
def FaultCode.number : FaultCode → Nat
  | .regAfterStart => 1
  | .dupHandler => 2
  | .dispatchBeforeStart => 3
  | .badKind => 4
  | .precond => 5

/-- A fault record as its code's number, `op` and `info` (10_state.md R54; 60_exceptions.md R342). -/
def FaultRec.numbers (f : FaultRec) : Nat × Byte × Byte := (f.code.number, f.op, f.info)

/-- `FSTAT` (10_state.md R59). -/
def State.fstat (s : State) : ViewRec := .fstat (s.fault.map FaultRec.numbers) s.refused

/-- `view(S)` (40_queue.md R153); `none` for a queue index that does not exist. -/
def State.view (s : State) : StatView → Option ViewRec
  | .qstat q => if h : q.toNat < 8 then some (s.qstat ⟨q.toNat, h⟩) else none
  | .dstat => some s.dstat
  | .txstat => some s.txstat
  | .rxstat => some s.rxstat
  | .tmrstat => some s.tmrstat
  | .gstat => some s.gstat
  | .nocstat => some s.nocstat
  | .fstat => some s.fstat

/-- What node (x, y) of ring `r` holds after an event history: the last `NodeWrite` to it (10_state.md R63). -/
def lastNodeWrite (evs : List (Nat × Event)) (r x y : Nat) : Option NodeRec :=
  evs.foldl (fun acc ev => match ev.2 with
    | .nodeWrite r' x' y' rec => if (r', x', y') = (r, x, y) then some rec else acc
    | _ => acc) none

/-- The translation enable node (x, y) of ring `r` holds after an event history: the last one that a `NodeWrite` or a `NodeEnable` gives it (10_state.md R63; 30_encoding.md R122). -/
def lastNodeEnable (evs : List (Nat × Event)) (r x y : Nat) : Option Bool :=
  evs.foldl (fun acc ev => match ev.2 with
    | .nodeWrite r' x' y' rec => if (r', x', y') = (r, x, y) then rec.en.or acc else acc
    | .nodeEnable r' x' y' en => if (r', x', y') = (r, x, y) then some en else acc
    | _ => acc) none

end Sys2Proof.Machine
end

