-- ==== Sys2Proof/Machine/Ops.lean ====
section
/-! DEFINITION. The shared operations over the state: outcomes, faults and refusals, memory and queues, CM2DM, timers, the NOC engine, and the dispatch of one request. -/

namespace Sys2Proof.Machine

/-! ## Outcomes, events, faults (00_scope.md R15; 60_exceptions.md R340, R341) -/

/-- The transaction of agent `a` ends with a result. -/
def State.finish (a : Agent) (r : Result) (s : State) : State := { s with out := some (a, .result r) }

/-- The transaction of agent `a` is refused: `S.refused <- 1` and no other state of the block is written (60_exceptions.md R341). -/
def State.refuse (a : Agent) (s : State) : State := { s with refused := true, out := some (a, .refusal) }

/-- The fault set with a record added; equal records coincide (60_exceptions.md R347). -/
def addFault (f : FaultRec) (fs : List FaultRec) : List FaultRec := if f ∈ fs then fs else fs ++ [f]

/-- TAKING A FAULT, `raise F(info)`: the record is added and the transaction ends with no result and no other state written (60_exceptions.md R340, R346). There is no return from it (R347). -/
def State.raise (a : Agent) (f : FaultRec) (s : State) : State :=
  { s with fault := addFault f s.fault, out := some (a, .fault f) }

/-- `note F(info)`: the record is added and the transaction goes on (60_exceptions.md R340). -/
def State.note (f : FaultRec) (s : State) : State := { s with fault := addFault f s.fault }

/-- Events numbered from `n` on. -/
def numberEvents (n : Nat) : List Event → List (Nat × Event)
  | [] => []
  | e :: es => (n, e) :: numberEvents (n + 1) es

/-- `emit`, for several events in order (00_scope.md R15; 10_state.md R56). -/
def State.emitAll (es : List Event) (s : State) : State :=
  { s with events := s.events ++ numberEvents s.events.length es }

/-- `emit Ev` (00_scope.md R15). -/
def State.emit (e : Event) (s : State) : State := s.emitAll [e]

/-! ## Memory (00_scope.md R14; 20_memory.md R80, R81) -/

/-- The byte at an address, or no value. -/
def memGet : Memory → Nat → Option Byte
  | [], _ => none
  | (b, v) :: r, a => if a = b then some v else memGet r a

/-- The memory with one byte written, in canonical form. -/
def memSet : Memory → Nat → Byte → Memory
  | [], a, v => [(a, v)]
  | (b, w) :: r, a, v =>
    if a < b then (a, v) :: (b, w) :: r
    else if a = b then (a, v) :: r
    else (b, w) :: memSet r a v

/-- The canonical form: addresses strictly rising. -/
def Memory.wf (m : Memory) : Bool := decide (m.Pairwise (fun x y => x.1 < y.1))

/-- The memory with consecutive bytes written from `a` on. -/
def writeBytes (m : Memory) (a : Nat) : List Byte → Memory
  | [] => m
  | v :: vs => writeBytes (memSet m a v) (a + 1) vs

/-- `n` consecutive bytes from `a` on, or no value where one of them has none. -/
def readBytes (m : Memory) (a : Nat) : Nat → Option (List Byte)
  | 0 => some []
  | n + 1 =>
    match memGet m a, readBytes m (a + 1) n with
    | some v, some vs => some (v :: vs)
    | _, _ => none

/-- The address of byte 0 of slot `i` of queue `q`. The addresses are the model's own (notes/assumptions/6.md). -/
def slotAddr (q : Fin 8) (i : Nat) : Nat := 32 * (8 * i + q.val)

/-- `MemRead(q, i)` (00_scope.md R14). -/
def memRead (m : Memory) (q : Fin 8) (i : Nat) : Option Entry := (readBytes m (slotAddr q i) 32).map entryOfBytes

/-- `MemWrite(q, i, e)` (00_scope.md R14). -/
def memWrite (m : Memory) (q : Fin 8) (i : Nat) (e : Entry) : Memory := writeBytes m (slotAddr q i) (entryBytes e)

/-! ## Queues (40_queue.md R150 to R152) -/

/-- Pointer value `p` names storage slot `p mod C` (40_queue.md R150). -/
def slotOf (cap p : Nat) : Nat := p % cap

/-- The pointer after `p`, modulo 2C (40_queue.md R151, R152). -/
def nextPtr (cap p : Nat) : Nat := (p + 1) % (2 * cap)

/-- The body of PUSH: the state after an accepted push, or `none` for FULL, which writes nothing (40_queue.md R151). -/
def tryPush (q : Fin 8) (e : Entry) (s : State) : Option State :=
  if s.cfg.queueCapacity ≤ s.occ q then none
  else
    some { s with
      mem := memWrite s.mem q (slotOf s.cfg.queueCapacity s.rmq[q].wp) e
      rmq := s.rmq.set q { s.rmq[q] with wp := nextPtr s.cfg.queueCapacity s.rmq[q].wp } }

/-- What the body of POP finds. -/
inductive PopOutcome where
  | empty
  | unwritten
  | got (e : Entry) (s : State)

/-- The body of POP (40_queue.md R152). -/
def tryPop (q : Fin 8) (s : State) : PopOutcome :=
  if s.rmq[q].wp = s.rmq[q].rp then .empty
  else
    match memRead s.mem q (slotOf s.cfg.queueCapacity s.rmq[q].rp) with
    | none => .unwritten
    | some e => .got e { s with rmq := s.rmq.set q { s.rmq[q] with rp := nextPtr s.cfg.queueCapacity s.rmq[q].rp } }

/-- The model's stop for a POP of a slot that holds no value (notes/assumptions/6.md). -/
def unwrittenAt (q : Fin 8) (s : State) : Fault := .unwrittenSlot q.val (slotOf s.cfg.queueCapacity s.rmq[q].rp)

/-! ## CM2DM transmit half (42_cm2dm.md R210 to R222) -/

/-- The body of POST: value and pending bit of kind `k` (42_cm2dm.md R210). -/
def setPending (k : Byte) (v : Word) (s : State) : State :=
  { s with tx := { s.tx with value := vset s.tx.value k.toNat v, pending := vset s.tx.pending k.toNat true } }

/-- The kind that SELECT's scan finds (42_cm2dm.md R213). -/
def scanPending (s : State) : Option Nat :=
  ((List.range s.cfg.kindCount).map (fun i => (s.tx.nextIdRr + i) % s.cfg.kindCount)).find? (fun k => vget s.tx.pending k false)

/-- SELECT (42_cm2dm.md R213). -/
def selectNext (s : State) : State :=
  match scanPending s with
  | none => s
  | some k =>
    { s with
      tx := { s.tx with
        pending := vset s.tx.pending k false
        seq := s.tx.seq + 1
        inflight := ⟨true, BitVec.ofNat 8 k, s.tx.seq + 1, vget s.tx.value k 0⟩
        nextIdRr := (k + 1) % s.cfg.kindCount } }

/-- `RECORD()`: the in-flight message, or the Null placeholder (42_cm2dm.md R214). -/
def State.record (s : State) : Record :=
  if s.tx.inflight.valid then ⟨s.tx.inflight.kind, s.tx.inflight.seq, s.tx.inflight.data⟩ else ⟨0, 0, 0⟩

/-- SEM_GIVE (42_cm2dm.md R259). -/
def semGive (s : State) : State :=
  let s1 := s.emit .pingGive
  if s.tmr.pingWait then { s1 with tmr := { s1.tmr with pingWait := false, pingResult := .alive, pingHasResult := true } }
  else { s1 with tmr := { s1.tmr with sem := if s.tmr.sem.toNat + 1 ≤ s.cfg.semMax.toNat then s.tmr.sem + 1 else s.cfg.semMax } }

/-- An ack matches when both kind and sequence number match the in-flight record exactly (42_cm2dm.md R216). -/
def ackMatches (k : Ack) (s : State) : Bool :=
  s.tx.inflight.valid && decide (k.id = s.tx.inflight.kind) && decide (k.seq = s.tx.inflight.seq)

/-- The in-flight record retires (42_cm2dm.md R216). -/
def clearInflight (s : State) : State := { s with tx := { s.tx with inflight := { s.tx.inflight with valid := false } } }

/-- The body of ACKIN (42_cm2dm.md R216, R217). -/
def acceptAck (k : Ack) (s : State) : State :=
  if ackMatches k s then
    (if k.id = s.cfg.kindId.ping ∨ k.id = s.cfg.kindId.pingV2 then semGive (clearInflight s) else clearInflight s)
  else s

/-! ## Timers (42_cm2dm.md R236 to R239, R250 to R253) -/

/-- The reset path's state when a reset is accepted (42_cm2dm.md R236). -/
def startReset (arg : Word) (s : State) : State :=
  { s with tmr := { s.tmr with rstPending := true, rstRemaining := s.cfg.resetDelayTicks, rstArg := arg } }

/-- No reset is on its way (42_cm2dm.md R236). -/
def resetIdle (s : State) : Bool := !s.tmr.rstPending && !s.tmr.rstOut

/-- RESET_PATH (42_cm2dm.md R236). -/
def resetPath (arg : Word) (s : State) : State := if resetIdle s then startReset arg s else s

/-- WD_SET (42_cm2dm.md R238). -/
def wdSet (data : Word) (s : State) : State :=
  if data = 0 then { s with tmr := { s.tmr with wdArmed := false, wdTimeout := 0, wdRemaining := 0 } }
  else { s with tmr := { s.tmr with wdArmed := true, wdTimeout := data, wdRemaining := data } }

/-- HB (42_cm2dm.md R239). -/
def heartbeat (data : Word) (s : State) : State :=
  if s.rx.hbValid = false ∨ data ≠ s.rx.lastHb then
    { s with
      rx := { s.rx with hbValid := true, lastHb := data }
      tmr := if s.tmr.wdArmed then { s.tmr with wdRemaining := s.tmr.wdTimeout } else s.tmr }
  else s

/-- RST_TICK (42_cm2dm.md R252). -/
def rstTick (s : State) : State :=
  let left := s.tmr.rstRemaining - 1
  if left = 0 then
    { s with tmr := { s.tmr with rstRemaining := left, rstPending := false, rstOut := true } }.emit (.resetOut s.tmr.rstArg)
  else { s with tmr := { s.tmr with rstRemaining := left } }

/-- WD_TICK (42_cm2dm.md R251); `free` says whether no reset was on its way when the TICK began (R250). -/
def wdTick (free : Bool) (s : State) : State :=
  let left := s.tmr.wdRemaining - 1
  if left = 0 then
    let s1 := { s with tmr := { s.tmr with wdRemaining := left, wdArmed := false } }
    if free then startReset s.cfg.wdResetArg s1 else s1
  else { s with tmr := { s.tmr with wdRemaining := left } }

/-- PING_TICK (42_cm2dm.md R253). -/
def pingTick (s : State) : State :=
  let left := s.tmr.pingRemaining - 1
  if left = 0 then { s with tmr := { s.tmr with pingRemaining := left, pingWait := false, pingResult := .timeout, pingHasResult := true } }
  else { s with tmr := { s.tmr with pingRemaining := left } }

/-- The body of TICK: reset delay, watchdog, ping timeout, every test reading the state as the TICK began (42_cm2dm.md R250). -/
def tickTimers (s : State) : State :=
  let s1 := if s.tmr.rstPending then rstTick s else s
  let s2 := if s.tmr.wdArmed then wdTick (resetIdle s) s1 else s1
  if s.tmr.pingWait then pingTick s2 else s2

/-! ## Ping check (42_cm2dm.md R260) -/

/-- The semaphore is taken at once. -/
def takeSem (s : State) : State := { s with tmr := { s.tmr with sem := s.tmr.sem - 1 } }

/-- The check starts to wait. -/
def armPing (s : State) : State :=
  { s with tmr := { s.tmr with pingWait := true, pingRemaining := s.cfg.pingTimeoutTicks } }

/-- The result that a ping check returns. -/
def pingOutcome : PingResult → Result
  | .alive => .alive
  | .timeout => .timeout

/-! ## CM2DM receive half (42_cm2dm.md R230 to R242) -/

/-- The named kinds other than Null that have an effect of their own (42_cm2dm.md R235); under a numbering `ids`. -/
def ownEffect (ids : KindIds) (id : Byte) (data : Word) (s : State) : State :=
  if id = ids.resetReq then resetPath data s
  else if id = ids.autoResetTimeoutUpdate then wdSet data s
  else if id = ids.heartbeatUpdate then heartbeat data s
  else s

/-- Data storage, which every known kind gets first (42_cm2dm.md R235, R240). -/
def storeKind (id : Byte) (data : Word) (s : State) : State :=
  { s with rx := { s.rx with value := vset s.rx.value id.toNat data } }.emit (.kindUpdate id data)

/-- KIND_EFFECT (42_cm2dm.md R235, R241). -/
def kindEffect (id : Byte) (data : Word) (s : State) : State :=
  if s.cfg.kindCount ≤ id.toNat then s else ownEffect s.cfg.kindId id data (storeKind id data s)

/-- A record is a duplicate when its sequence number equals the last valid one; the kind is not compared (42_cm2dm.md R231). -/
def isDuplicate (m : Record) (s : State) : Bool := s.rx.lastSeqValid && decide (m.seq = s.rx.lastSeq)

/-- A duplicate is logged once per value (42_cm2dm.md R233). -/
def logDuplicate (seq : Byte) (s : State) : State :=
  if s.rx.dupLogValid = true ∧ s.rx.dupLogSeq = seq then s
  else { s with rx := { s.rx with dupLogValid := true, dupLogSeq := seq } }.emit (.dupLog seq)

/-- A new sequence number is accepted (42_cm2dm.md R230). -/
def acceptSeq (seq : Byte) (s : State) : State :=
  { s with rx := { s.rx with lastSeq := seq, lastSeqValid := true, dupLogValid := false } }

/-- The body of MSGIN: the receipt of a record by TRANSPORT (42_cm2dm.md R230). -/
def receive (m : Record) (s : State) : State :=
  if m.id = 0 then s.finish .transport .none
  else
    let s1 := s.emit (.ackOut m.id m.seq)
    let s2 := if isDuplicate m s then logDuplicate m.seq s1 else kindEffect m.id m.data (acceptSeq m.seq s1)
    s2.finish .transport (.ack (recordAck m))

/-! ## NOC engine (43_noc.md R273 to R291) -/

/-- The information a PRECOND record carries (60_exceptions.md R342). -/
def classInfo : TileClass → Byte
  | .tensix => 0
  | .gddr => 1

/-- The body of COMPUTE, run by the port operation `op` (43_noc.md R275, R287). -/
def computeTables (op : Byte) (s : State) : State :=
  let t := computedTable s.cfg.geo s.cfg.fixedNodes s.noc.harv
  let bad := violatedClasses s.cfg s.noc.harv
  let s1 := { s with
    noc := { s.noc with
      ring0 := drawClasses s.cfg.geo s.draws 0 bad t
      ring1 := drawClasses s.cfg.geo s.draws 1 bad (mirror t)
      precondViolated := s.noc.precondViolated || !bad.isEmpty }
    draws := if bad.isEmpty then s.draws else s.draws + 1 }
  bad.foldl (fun s c => s.note ⟨.precond, op, classInfo c⟩) s1

/-- One ring's node-write stream (43_noc.md R288, R289). -/
def ringEvents (geo : Geometry) (r : Nat) (t : Table) : List Event :=
  nodeOrder.map (fun n => Event.nodeWrite r n.1 n.2 (nodeRec geo r n.1 n.2 t)) ++ [Event.nodeEnable r geo.arc.1 geo.arc.2 t.enable]

/-- The body of PROGRAM: ring 0, then ring 1 (43_noc.md R288). -/
def programNodes (s : State) : State :=
  s.emitAll (ringEvents s.cfg.geo 0 s.noc.ring0 ++ ringEvents s.cfg.geo 1 s.noc.ring1)

/-- The body of CLEAR (43_noc.md R290). -/
def clearTables (s : State) : State :=
  { s with noc := { s.noc with ring0 := clearedTable s.cfg.geo, ring1 := mirror (clearedTable s.cfg.geo) } }

/-- The harvest registers as DEBUGNOC writes them (43_noc.md R291). -/
def debugHarvest (d : DbgNoc) (s : State) : State :=
  { s with
    noc := { s.noc with
      harvValid := true
      harv := {
        tensixBad := d.badTensix
        gddrBad := d.badGddr
        skipEth := d.skipEth
        ethBad := if s.noc.harvValid then s.noc.harv.ethBad else 0
        pcieEn := if s.noc.harvValid then s.noc.harv.pcieEn else 0
        pcieOverride := d.pcieOverride
        pcieSel := d.pcieInstance } } }

/-- DEBUGNOC: its status and the state after it (43_noc.md R291). It runs inside DPASS, so a fault it notes carries op 0x12 (60_exceptions.md R340). -/
def debugNoc (d : DbgNoc) (s : State) : Byte × State :=
  if d.badGddr ≠ s.cfg.gddrNone ∧ s.cfg.geo.nGddr ≤ d.badGddr.toNat then (s.cfg.errBadGddr, s)
  else if d.enable = false then (0, programNodes (clearTables s))
  else (0, programNodes (computeTables 0x12 (debugHarvest d s)))

/-! ## Init gate (42_cm2dm.md R265) -/

/-- The init steps from `i` on, `n` of them: retried from step 0 at the next INITTICK if one fails (42_cm2dm.md R265). -/
def initSteps (i : Nat) : Nat → State → State
  | 0, s => { s with gate := ⟨false⟩ }
  | n + 1, s =>
    let r := Config.initStep i s.ext
    let s1 := { s with ext := r.2 }.emit (.initStep i r.1)
    if r.1 then initSteps (i + 1) n s1 else s1

/-! ## Dispatch of one request (41_dispatch.md R182 to R191) -/

/-- LOOP's place after `DSTEP(c)` (41_dispatch.md R185). -/
def afterDstep (c : Fin 4) : LoopPos := if c = 3 then .idle else .pass (c + 1)

/-- `DSTEP(c)` ends with OK and LOOP moves on (41_dispatch.md R185). -/
def endDstep (c : Fin 4) (s : State) : State := { s with loop := afterDstep c }.finish .loop .ok

/-- The response is pushed to `RSPc`, or dropped where that is full, and `DSTEP(c)` ends (41_dispatch.md R185, R186). -/
def respond (c : Fin 4) (rsp : Entry) (s : State) : State :=
  endDstep c ((tryPush (rspQueue c) rsp s).getD (s.emit (.rspDropped c)))

/-- `H_PINGDM` up to its hold: post a Ping with value 0, then check (41_dispatch.md R190; 42_cm2dm.md R260). -/
def pingDmStart (c : Fin 4) (s : State) : State :=
  let s1 := setPending s.cfg.kindId.ping 0 s
  if 0 < s1.tmr.sem.toNat then respond c (pingDmResponse true) (takeSem s1)
  else { armPing s1 with loop := .heldDispatch c, out := some (.loop, .hold) }

/-- DISPATCH of request `e` taken from channel `c`, and the rest of its DSTEP (41_dispatch.md R182, R185). -/
def dispatchRequest (c : Fin 4) (e : Entry) (s : State) : State :=
  let t := requestCode e
  match vget s.disp.table t.toNat none with
  | none => respond c Entry.zero s
  | some h =>
    let s1 := s.emit (.handlerCall t)
    match h with
    | .external id =>
      let r := Config.externalHandler id t e s.ext
      respond c (responseEntry r.status r.out) { s1 with ext := r.ext }
    | .pingDM => pingDmStart c s1
    | .debugNoc =>
      let r := debugNoc (dbgNocFields e) s1
      respond c (responseEntry r.1 Entry.zero) r.2

/-- `DSTEP(c)` (41_dispatch.md R185). A fault ends the pass. -/
def dstep (c : Fin 4) (s : State) : Host.Outcome State Fault Refusal :=
  if s.disp.phase ≠ .run then
    .next ({ s with loop := .idle }.raise .loop ⟨.dispatchBeforeStart, 0x12, BitVec.ofNat 8 c.val⟩)
  else
    match tryPop (reqQueue c) s with
    | .empty => .next (endDstep c s)
    | .unwritten => .fault (unwrittenAt (reqQueue c) s)
    | .got e s1 => .next (dispatchRequest c e s1)

/-- LOOP goes on: the next DSTEP of an open pass, or what follows a hold once `ping_wait` is 0 (41_dispatch.md R185, R190; 42_cm2dm.md R260). -/
def loopTurn (s : State) : Host.Outcome State Fault Refusal :=
  match s.loop with
  | .idle => .next s
  | .pass c => dstep c s
  | .heldCheck =>
    if s.tmr.pingWait then .next s
    else .next ({ s with loop := .idle }.finish .loop (pingOutcome s.tmr.pingResult))
  | .heldDispatch c =>
    if s.tmr.pingWait then .next s
    else .next (respond c (pingDmResponse (decide (s.tmr.pingResult = .alive))) s)

/-! ## RESET (70_reset_and_hazards.md R370, R371) -/

/-- RESET: every field takes its reset value but the event history, which is kept; a hold or an open pass is abandoned. The parameters, the inputs not yet taken, the external state and the number of draws are not the block's state and stay. DESIGN CHOICE: RESET returns nothing (R370), and the model's field `out` records OK of agent RESET (notes/assumptions/8.md, 20.md). -/
def blockReset (s : State) : State :=
  { State.powerOn s.cfg with
    events := s.events
    inbox := s.inbox
    ext := s.ext
    draws := s.draws
    out := some (.reset, .result .ok) }

end Sys2Proof.Machine
end

