-- ==== Sys2Proof/Machine/Cm2dm.lean ====
section
/-! DEFINITION. The CM2DM arbiter's port operations (42_cm2dm.md R210 to R265). -/

namespace Sys2Proof.Machine

/-- POST k, v (42_cm2dm.md R210, R211). -/
def execPost (a : Agent) (k : Byte) (v : Word) (s : State) : Host.Outcome State Fault Refusal :=
  if a ≠ .loop then .next (s.refuse a)
  else if k = 0 ∨ s.cfg.kindCount ≤ k.toNat then .next (s.raise a ⟨.badKind, 0x20, k⟩)
  else .next ((setPending k v s).finish a .ok)

/-- POLL (42_cm2dm.md R212). -/
def execPoll (a : Agent) (s : State) : Host.Outcome State Fault Refusal :=
  if a ≠ .loop ∧ a ≠ .transport then .next (s.refuse a)
  else
    let s1 := if s.tx.inflight.valid then s else selectNext s
    .next (s1.finish a (.record s1.record))

/-- READMSG (42_cm2dm.md R214). -/
def execReadmsg (a : Agent) (s : State) : Host.Outcome State Fault Refusal :=
  if a ≠ .transport then .next (s.refuse a) else .next (s.finish a (.record s.record))

/-- ACKIN k (42_cm2dm.md R216). -/
def execAckin (a : Agent) (k : Ack) (s : State) : Host.Outcome State Fault Refusal :=
  if a ≠ .transport then .next (s.refuse a) else .next ((acceptAck k s).finish a .ok)

/-- MSGIN m (42_cm2dm.md R230). -/
def execMsgin (a : Agent) (m : Record) (s : State) : Host.Outcome State Fault Refusal :=
  if a ≠ .transport then .next (s.refuse a) else .next (receive m s)

/-- PINGCHK (42_cm2dm.md R260). -/
def execPingchk (a : Agent) (s : State) : Host.Outcome State Fault Refusal :=
  if a ≠ .loop then .next (s.refuse a)
  else if 0 < s.tmr.sem.toNat then .next ((takeSem s).finish a .alive)
  else .next { armPing s with loop := .heldCheck, out := some (a, .hold) }

/-- INITTICK (42_cm2dm.md R265). -/
def execInittick (a : Agent) (s : State) : Host.Outcome State Fault Refusal :=
  if a ≠ .loop then .next (s.refuse a)
  else .next ((if s.gate.needsInit then initSteps 0 3 s else s).finish a .ok)

/-- TICK (42_cm2dm.md R250). -/
def execTick (a : Agent) (s : State) : Host.Outcome State Fault Refusal :=
  if a ≠ .timebase then .next (s.refuse a) else .next ((tickTimers s).finish a .ok)

end Sys2Proof.Machine
end

