-- ==== Sys2Proof/Machine/Command.lean ====
section
/-! DEFINITION. The host commands (30_encoding.md R126): DISPATCH of a request with that code, taken from channel `c`, and the rest of its DSTEP. The handler table decides which handler runs (30_encoding.md R129; 41_dispatch.md R180, R182). -/

namespace Sys2Proof.Machine

/-- Command 0x12 SetVoltage (41_dispatch.md R189). -/
def execSetVoltage (c : Fin 4) (p : Payload) (s : State) : Host.Outcome State Fault Refusal :=
  .next (dispatchRequest c (requestEntry 0x12 p) s)

/-- Command 0x21 PowerSetting (41_dispatch.md R189). -/
def execPowerSetting (c : Fin 4) (p : Payload) (s : State) : Host.Outcome State Fault Refusal :=
  .next (dispatchRequest c (requestEntry 0x21 p) s)

/-- Command 0x56 TriggerReset (41_dispatch.md R189). -/
def execTriggerReset (c : Fin 4) (p : Payload) (s : State) : Host.Outcome State Fault Refusal :=
  .next (dispatchRequest c (requestEntry 0x56 p) s)

/-- Command 0xAC ForceFanSpeed (41_dispatch.md R189). -/
def execForceFanSpeed (c : Fin 4) (p : Payload) (s : State) : Host.Outcome State Fault Refusal :=
  .next (dispatchRequest c (requestEntry 0xAC p) s)

/-- Command 0xC0 PingDM (41_dispatch.md R190 where `H_PINGDM` is registered). -/
def execPingDM (c : Fin 4) (p : Payload) (s : State) : Host.Outcome State Fault Refusal :=
  .next (dispatchRequest c (requestEntry 0xC0 p) s)

/-- Command 0xDE DebugNocTranslation (41_dispatch.md R191 where `H_DEBUGNOC` is registered). -/
def execDebugNocTranslation (c : Fin 4) (p : Payload) (s : State) : Host.Outcome State Fault Refusal :=
  .next (dispatchRequest c (requestEntry 0xDE p) s)

end Sys2Proof.Machine
end

