-- ==== Sys2Proof/Machine/Disp.lean ====
section
/-! DEFINITION. The dispatch unit's port operations REG, START and DPASS (41_dispatch.md R180, R181, R185). -/

namespace Sys2Proof.Machine

/-- REG t, h (41_dispatch.md R180, R193, R194). -/
def execReg (a : Agent) (t : Byte) (h : HandlerName) (s : State) : Host.Outcome State Fault Refusal :=
  if a ≠ .loop then .next (s.refuse a)
  else if s.disp.phase ≠ .init then .next (s.raise a ⟨.regAfterStart, 0x10, t⟩)
  else if vget s.disp.table t.toNat none ≠ none then .next (s.raise a ⟨.dupHandler, 0x10, t⟩)
  else .next ({ s with disp := { s.disp with table := vset s.disp.table t.toNat (some h) } }.finish a .ok)

/-- START (41_dispatch.md R181). -/
def execStart (a : Agent) (s : State) : Host.Outcome State Fault Refusal :=
  if a ≠ .loop then .next (s.refuse a)
  else .next ({ s with disp := { s.disp with phase := .run } }.finish a .ok)

/-- DPASS: `DSTEP(0)`, after which LOOP's place names the next DSTEP (41_dispatch.md R185). -/
def execDpass (a : Agent) (s : State) : Host.Outcome State Fault Refusal :=
  if a ≠ .loop then .next (s.refuse a) else dstep 0 s

end Sys2Proof.Machine
end

