-- ==== Sys2Proof/Machine/Kind.lean ====
section
/-! DEFINITION. The CM2DM kinds as received (30_encoding.md R127; 42_cm2dm.md R230 to R242): TRANSPORT delivers a record of that kind. The kinds' numbers are the parameter `KIND_ID`. -/

namespace Sys2Proof.Machine

/-- Null: no message, no ack, no state (42_cm2dm.md R232). -/
def execNullMsg (seq : Byte) (data : Word) (s : State) : Host.Outcome State Fault Refusal :=
  .next (receive ⟨0, seq, data⟩ s)

/-- ResetReq (42_cm2dm.md R236). -/
def execResetReq (seq : Byte) (data : Word) (s : State) : Host.Outcome State Fault Refusal :=
  .next (receive ⟨s.cfg.kindId.resetReq, seq, data⟩ s)

/-- Ping (42_cm2dm.md R237). -/
def execPing (seq : Byte) (data : Word) (s : State) : Host.Outcome State Fault Refusal :=
  .next (receive ⟨s.cfg.kindId.ping, seq, data⟩ s)

/-- FanSpeedUpdate (42_cm2dm.md R240). -/
def execFanSpeedUpdate (seq : Byte) (data : Word) (s : State) : Host.Outcome State Fault Refusal :=
  .next (receive ⟨s.cfg.kindId.fanSpeedUpdate, seq, data⟩ s)

/-- Ready (42_cm2dm.md R240). -/
def execReady (seq : Byte) (data : Word) (s : State) : Host.Outcome State Fault Refusal :=
  .next (receive ⟨s.cfg.kindId.ready, seq, data⟩ s)

/-- AutoResetTimeoutUpdate (42_cm2dm.md R238). -/
def execAutoResetTimeoutUpdate (seq : Byte) (data : Word) (s : State) : Host.Outcome State Fault Refusal :=
  .next (receive ⟨s.cfg.kindId.autoResetTimeoutUpdate, seq, data⟩ s)

/-- HeartbeatUpdate (42_cm2dm.md R239). -/
def execHeartbeatUpdate (seq : Byte) (data : Word) (s : State) : Host.Outcome State Fault Refusal :=
  .next (receive ⟨s.cfg.kindId.heartbeatUpdate, seq, data⟩ s)

/-- ForcedFanSpeedUpdate (42_cm2dm.md R240). -/
def execForcedFanSpeedUpdate (seq : Byte) (data : Word) (s : State) : Host.Outcome State Fault Refusal :=
  .next (receive ⟨s.cfg.kindId.forcedFanSpeedUpdate, seq, data⟩ s)

/-- PingV2 (42_cm2dm.md R237). -/
def execPingV2 (seq : Byte) (data : Word) (s : State) : Host.Outcome State Fault Refusal :=
  .next (receive ⟨s.cfg.kindId.pingV2, seq, data⟩ s)

end Sys2Proof.Machine
end

