-- ==== Sys2Proof/Machine/Noc.lean ====
section
/-! DEFINITION. The NOC engine's port operations SETHARV, COMPUTE, PROGRAM and CLEAR (43_noc.md R273 to R290). -/

namespace Sys2Proof.Machine

/-- SETHARV (43_noc.md R273, R274). -/
def execSetharv (a : Agent) (tb : Half) (g : Byte) (se : Half) (eb : Half) (pe : Byte) (s : State) : Host.Outcome State Fault Refusal :=
  if a ≠ .loop then .next (s.refuse a)
  else if s.noc.harvValid then .next (s.refuse a)
  else .next ({ s with noc := { s.noc with harvValid := true, harv := ⟨tb, g, se, eb, pe, false, false⟩ } }.finish a .ok)

/-- COMPUTE (43_noc.md R275). -/
def execCompute (a : Agent) (s : State) : Host.Outcome State Fault Refusal :=
  if a ≠ .loop then .next (s.refuse a)
  else if s.noc.harvValid = false then .next (s.refuse a)
  else .next ((computeTables 0x41 s).finish a .ok)

/-- PROGRAM (43_noc.md R288). -/
def execProgram (a : Agent) (s : State) : Host.Outcome State Fault Refusal :=
  if a ≠ .loop then .next (s.refuse a) else .next ((programNodes s).finish a .ok)

/-- CLEAR (43_noc.md R290). -/
def execClear (a : Agent) (s : State) : Host.Outcome State Fault Refusal :=
  if a ≠ .loop then .next (s.refuse a) else .next ((clearTables s).finish a .ok)

end Sys2Proof.Machine
end

