-- ==== Sys2Proof/Machine/Queue.lean ====
section
/-! DEFINITION. The ring queue operations PUSH, POP and STAT (40_queue.md R151 to R153). -/

namespace Sys2Proof.Machine

/-- PUSH q, e (40_queue.md R151). -/
def execPush (a : Agent) (q : Byte) (e : Entry) (s : State) : Host.Outcome State Fault Refusal :=
  if h : q.toNat < 8 then
    if a ≠ producer ⟨q.toNat, h⟩ then .next (s.refuse a)
    else
      match tryPush ⟨q.toNat, h⟩ e s with
      | none => .next (s.finish a .full)
      | some s1 => .next (s1.finish a .ok)
  else .next (s.refuse a)

/-- POP q (40_queue.md R152). -/
def execPop (a : Agent) (q : Byte) (s : State) : Host.Outcome State Fault Refusal :=
  if h : q.toNat < 8 then
    if a ≠ consumer ⟨q.toNat, h⟩ then .next (s.refuse a)
    else
      match tryPop ⟨q.toNat, h⟩ s with
      | .empty => .next (s.finish a .none)
      | .unwritten => .fault (unwrittenAt ⟨q.toNat, h⟩ s)
      | .got e s1 => .next (s1.finish a (.entry e))
  else .next (s.refuse a)

/-- STAT view: any agent may start it, and it writes no state of the block (40_queue.md R153). -/
def execStat (a : Agent) (v : StatView) (s : State) : Host.Outcome State Fault Refusal :=
  match s.view v with
  | none => .next (s.refuse a)
  | some r => .next (s.finish a (.view r))

end Sys2Proof.Machine
end

