-- ==== Sys2Proof/Machine/Dispatch.lean ====
section
/-! DEFINITION. The meaning of every instruction, by one direct call each. -/

namespace Sys2Proof.Machine

def exec (i : Instr) (s : State) : Host.Outcome State Fault Refusal :=
  match i with
  | .push a q e => Sys2Proof.Machine.execPush a q e s
  | .pop a q => Sys2Proof.Machine.execPop a q s
  | .stat a v => Sys2Proof.Machine.execStat a v s
  | .reg a t h => Sys2Proof.Machine.execReg a t h s
  | .start a => Sys2Proof.Machine.execStart a s
  | .dpass a => Sys2Proof.Machine.execDpass a s
  | .post a k v => Sys2Proof.Machine.execPost a k v s
  | .poll a => Sys2Proof.Machine.execPoll a s
  | .readmsg a => Sys2Proof.Machine.execReadmsg a s
  | .ackin a k => Sys2Proof.Machine.execAckin a k s
  | .msgin a m => Sys2Proof.Machine.execMsgin a m s
  | .pingchk a => Sys2Proof.Machine.execPingchk a s
  | .inittick a => Sys2Proof.Machine.execInittick a s
  | .tick a => Sys2Proof.Machine.execTick a s
  | .setharv a tb g se eb pe => Sys2Proof.Machine.execSetharv a tb g se eb pe s
  | .compute a => Sys2Proof.Machine.execCompute a s
  | .program a => Sys2Proof.Machine.execProgram a s
  | .clear a => Sys2Proof.Machine.execClear a s
  | .setVoltage c p => Sys2Proof.Machine.execSetVoltage c p s
  | .powerSetting c p => Sys2Proof.Machine.execPowerSetting c p s
  | .triggerReset c p => Sys2Proof.Machine.execTriggerReset c p s
  | .forceFanSpeed c p => Sys2Proof.Machine.execForceFanSpeed c p s
  | .pingDM c p => Sys2Proof.Machine.execPingDM c p s
  | .debugNocTranslation c p => Sys2Proof.Machine.execDebugNocTranslation c p s
  | .nullMsg seq data => Sys2Proof.Machine.execNullMsg seq data s
  | .resetReq seq data => Sys2Proof.Machine.execResetReq seq data s
  | .ping seq data => Sys2Proof.Machine.execPing seq data s
  | .fanSpeedUpdate seq data => Sys2Proof.Machine.execFanSpeedUpdate seq data s
  | .ready seq data => Sys2Proof.Machine.execReady seq data s
  | .autoResetTimeoutUpdate seq data => Sys2Proof.Machine.execAutoResetTimeoutUpdate seq data s
  | .heartbeatUpdate seq data => Sys2Proof.Machine.execHeartbeatUpdate seq data s
  | .forcedFanSpeedUpdate seq data => Sys2Proof.Machine.execForcedFanSpeedUpdate seq data s
  | .pingV2 seq data => Sys2Proof.Machine.execPingV2 seq data s

end Sys2Proof.Machine
end

