-- ==== Sys2Proof/Machine/Fetch.lean ====
section
/-! DEFINITION. Which transaction happens next, and its decoding. The block has no program counter (00_scope.md R16): the agents' inputs, and the places of LOOP's own next transactions among them, stand in `inbox` in the order in which they are to happen; what LOOP's next transaction is stands in `loop` (notes/assumptions/1.md, 12.md). -/

namespace Sys2Proof.Machine

/-- LOOP holds: it takes no step until `ping_wait` is 0 (42_cm2dm.md R260; 70_reset_and_hazards.md R390). -/
def held (s : State) : Bool :=
  match s.loop with
  | .heldCheck => s.tmr.pingWait
  | .heldDispatch _ => s.tmr.pingWait
  | _ => false

/-- LOOP has a transaction of its own to go on with. -/
def loopReady (s : State) : Bool := decide (s.loop ≠ .idle) && !held s

/-- A port operation that LOOP starts. -/
def isLoopPort : Input → Bool
  | .port .loop _ => true
  | _ => false

/-- The first input that is no operation of LOOP, and the inputs without it: while LOOP holds, its operations wait (42_cm2dm.md R260). -/
def pickOther : List Input → Option (Input × List Input)
  | [] => none
  | i :: rest => if isLoopPort i then (pickOther rest).map (fun p => (p.1, i :: p.2)) else some (i, rest)

/-- What the next step is. -/
inductive Taken where
  /-- No transaction. -/
  | quiet (s : State)
  /-- LOOP goes on. -/
  | loopGoes (s : State)
  /-- An agent's port operation. -/
  | port (a : Agent) (bytes : List Byte) (s : State)
  /-- The RESET input. -/
  | reset (s : State)

/-- LOOP's turn: its next transaction, where it has one. -/
def takeTurn (s : State) : Taken := if loopReady s then .loopGoes s else .quiet s

/-- An input is taken. -/
def takeNow : Input → State → Taken
  | .port a bytes, s => .port a bytes s
  | .reset, s => .reset s
  | .turn, s => takeTurn s
  | .world g, s => .quiet { s with ext := g }

/-- The next transaction: that of the first input. Any agent's input may come between two transactions of LOOP (20_memory.md R93, R94; 41_dispatch.md R185). LOOP is one sequential agent: an open pass or a lifted hold goes on before LOOP starts another operation, and while LOOP holds its operations wait and the inputs behind them go first (20_memory.md R94; 42_cm2dm.md R260). With no input left LOOP goes on. -/
def takeInput (s : State) : Taken :=
  if held s then
    match pickOther s.inbox with
    | some p => takeNow p.1 { s with inbox := p.2 }
    | none => .quiet s
  else
    match s.inbox with
    | [] => takeTurn s
    | i :: rest => if loopReady s && isLoopPort i then .loopGoes s else takeNow i { s with inbox := rest }

/-- A request entry placed as the next one that LOOP takes from channel `c`: at the read pointer of `REQc`, with the phase RUN, `DSTEP(c)` LOOP's next transaction, and LOOP's turn the next input. -/
def placeRequest (c : Fin 4) (e : Entry) (s : State) : State :=
  let q := reqQueue c
  { s with
    mem := memWrite s.mem q (slotOf s.cfg.queueCapacity s.rmq[q].rp) e
    rmq := s.rmq.set q { s.rmq[q] with wp := if s.rmq[q].wp = s.rmq[q].rp then nextPtr s.cfg.queueCapacity s.rmq[q].rp else s.rmq[q].wp }
    disp := { s.disp with phase := .run }
    loop := .pass c
    inbox := .turn :: s.inbox }

/-- A port operation placed as the next transaction; LOOP's own needs LOOP to be free. -/
def placePort (a : Agent) (bytes : List Byte) (s : State) : State :=
  { s with inbox := .port a bytes :: s.inbox, loop := if a = .loop then .idle else s.loop }

/-- A word of the opcode table placed where the step fetches its next instruction, by its format (notes/assumptions/3.md): a port operation in the inbox; a request in its queue; a record as the operand of TRANSPORT's MSGIN. -/
def placeWord (nbits w : Nat) (s : State) : State :=
  match tableSource nbits w with
  | none => placePort .loop (wordBytesOf nbits w) s
  | some (.port a) => placePort a (tableBytes nbits w (.port a)) s
  | some (.request c) => placeRequest c (entryOfBytes (tableBytes nbits w (.request c))) s
  | some .record => placePort .transport (0x24 :: tableBytes nbits w .record) s

end Sys2Proof.Machine
end

