-- ==== Sys2Proof/Machine/Step.lean ====
section
/-! DEFINITION. One step: the next transaction of the block (00_scope.md R7). -/

namespace Sys2Proof.Machine

/-- One transaction. Bytes that decode to no port operation are refused (30_encoding.md R124, R128; 60_exceptions.md R341); with no transaction to take, nothing changes. -/
def step (s : State) : Host.Outcome State Fault Refusal :=
  match takeInput s with
  | .quiet s1 => .next s1
  | .loopGoes s1 => loopTurn s1
  | .reset s1 => .next (blockReset s1)
  | .port a bytes s1 =>
    match decode s1.cfg.kindId (.port a) bytes with
    | .ok i => exec i s1
    | .error _ => .next (s1.refuse a)

/-- `s` with a word of the opcode table stored where `step` fetches its next instruction. -/
def State.withFetchWord (s : State) (nbits w : Nat) : State := placeWord nbits w s

end Sys2Proof.Machine
end

