-- ==== Sys2Proof/Safety.lean ====
section
/-! DEFINITION. What counts as a well-formed state and as a safe run, in the terms the statements use. -/

namespace Sys2Proof.Machine

/-- Queue `q`'s pointers are in 0..2C-1 and its occupancy never exceeds C (10_state.md R32, R35). -/
def QueueBounded (s : State) (q : Fin 8) : Prop :=
  s.rmq[q].wp < 2 * s.cfg.queueCapacity ∧ s.rmq[q].rp < 2 * s.cfg.queueCapacity ∧ s.occ q ≤ s.cfg.queueCapacity

/-- The slot of the entry that the `j`-th next POP of queue `q` takes (40_queue.md R150, R152). -/
def pendingSlot (s : State) (q : Fin 8) (j : Nat) : Nat := slotOf s.cfg.queueCapacity (s.rmq[q].rp + j)

/-- Every occupied slot of queue `q` holds an entry (70_reset_and_hazards.md R372). -/
def OccupiedWritten (s : State) (q : Fin 8) : Prop :=
  ∀ j, j < s.occ q → (memRead s.mem q (pendingSlot s q j)).isSome

/-- The transmit half: a pending kind is in 1..KIND_COUNT-1, and the cursor is below KIND_COUNT (10_state.md R38, R42; 42_cm2dm.md R211). -/
def TxBounded (s : State) : Prop :=
  (∀ k, vget s.tx.pending k false = true → 1 ≤ k ∧ k < s.cfg.kindCount) ∧ s.tx.nextIdRr < s.cfg.kindCount

/-- The timers: an armed timer has at least one tick left, a pending reset has not been output, and the semaphore is at most SEM_MAX (42_cm2dm.md R236, R251 to R253; 10_state.md R49). -/
def TimersBounded (s : State) : Prop :=
  (s.tmr.wdArmed = true → 1 ≤ s.tmr.wdRemaining.toNat ∧ s.tmr.wdRemaining.toNat ≤ s.tmr.wdTimeout.toNat)
    ∧ (s.tmr.rstPending = true → 1 ≤ s.tmr.rstRemaining.toNat ∧ s.tmr.rstOut = false)
    ∧ (s.tmr.pingWait = true → 1 ≤ s.tmr.pingRemaining.toNat)
    ∧ s.tmr.sem.toNat ≤ s.cfg.semMax.toNat

/-- LOOP's place: a check waits only while LOOP holds, a hold that has been lifted left a result, and a pass is open only in RUN (41_dispatch.md R185; 42_cm2dm.md R260; 70_reset_and_hazards.md R372). -/
def LoopConsistent (s : State) : Prop :=
  (s.tmr.pingWait = true → s.loop = .heldCheck ∨ ∃ c, s.loop = .heldDispatch c)
    ∧ ((s.loop = .heldCheck ∨ ∃ c, s.loop = .heldDispatch c) → s.tmr.pingWait = true ∨ s.tmr.pingHasResult = true)
    ∧ (∀ c, s.loop = .pass c ∨ s.loop = .heldDispatch c → s.disp.phase = .run)

/-- The tables: ring 1 is the mirror of ring 0 unless a precondition was violated (43_noc.md R287, R294). -/
def RingsMirrored (s : State) : Prop := s.noc.precondViolated = false → s.noc.ring1 = mirror s.noc.ring0

/-- The histories: no fault record stands twice, and the events are numbered in order (10_state.md R54, R56). -/
def HistoriesWf (s : State) : Prop := s.fault.Nodup ∧ s.events.map Prod.fst = List.range s.events.length

/-- What every reachable state satisfies. -/
structure Inv (s : State) : Prop where
  params : s.cfg.wf = true
  queues : ∀ q, QueueBounded s q
  written : ∀ q, OccupiedWritten s q
  memory : s.mem.wf = true
  tx : TxBounded s
  timers : TimersBounded s
  place : LoopConsistent s
  rings : RingsMirrored s
  histories : HistoriesWf s

/-- A run so far without a refusal or a fault of the spec (60_exceptions.md R340, R341). -/
def State.clean (s : State) : Prop := s.refused = false ∧ s.fault = []

/-- What queue `q` holds, oldest entry first: what its next `occ(q)` POPs would return (40_queue.md R155). -/
def queueContents (s : State) (q : Fin 8) : List (Option Entry) :=
  (List.range (s.occ q)).map (fun j => memRead s.mem q (pendingSlot s q j))

/-- From `s` to `t`, entry `e` went into slot `wp mod C` of queue `q` and `wp` moved on modulo 2C; every byte outside that slot, and every other queue's pointers, are as before (40_queue.md R150, R151). -/
def StoredEntry (q : Fin 8) (e : Entry) (s t : State) : Prop :=
  memRead t.mem q (s.rmq[q].wp % s.cfg.queueCapacity) = some e
    ∧ (∀ a, a < slotAddr q (s.rmq[q].wp % s.cfg.queueCapacity) ∨ slotAddr q (s.rmq[q].wp % s.cfg.queueCapacity) + 32 ≤ a →
        memGet t.mem a = memGet s.mem a)
    ∧ t.rmq[q] = ⟨(s.rmq[q].wp + 1) % (2 * s.cfg.queueCapacity), s.rmq[q].rp⟩
    ∧ ∀ r, r ≠ q → t.rmq[r] = s.rmq[r]

/-- The entry that the next POP of queue `q` takes: slot `rp mod C` (40_queue.md R152). -/
def State.headEntry (s : State) (q : Fin 8) : Option Entry := memRead s.mem q (s.rmq[q].rp % s.cfg.queueCapacity)

/-- `s` with the oldest entry of queue `q` taken: `rp` moved on modulo 2C, and nothing else (40_queue.md R152). -/
def State.taken (s : State) (q : Fin 8) : State :=
  { s with rmq := s.rmq.set q ⟨s.rmq[q].wp, (s.rmq[q].rp + 1) % (2 * s.cfg.queueCapacity)⟩ }

/-- From `s` to `t`, LOOP ended `DSTEP(c)` with response `rsp`: stored in `RSPc`, or dropped with `RspDropped(c)` where that is full (41_dispatch.md R185, R186). LOOP's next place is `DSTEP(c+1)`, or none after channel 3. -/
def Responded (c : Fin 4) (rsp : Entry) (s t : State) : Prop :=
  (s.occ (rspQueue c) < s.cfg.queueCapacity →
      StoredEntry (rspQueue c) rsp s t
        ∧ t = { s with mem := t.mem, rmq := t.rmq, loop := afterDstep c, out := some (.loop, .result .ok) })
    ∧ (s.cfg.queueCapacity ≤ s.occ (rspQueue c) →
        t = { s with events := s.events ++ [(s.events.length, .rspDropped c)], loop := afterDstep c, out := some (.loop, .result .ok) })

/-- From `s` to `t`, LOOP ran the external handler `id` on request `req` of code `code`, taken from channel `c`: `HandlerCall`, the handler once on the request and the external state, and a response of its zero-extended status and its words 1 to 7 (41_dispatch.md R182, R183, R188, R189). -/
def RanExternal (c : Fin 4) (id code : Byte) (req : Entry) (s t : State) : Prop :=
  ∀ r : HandlerReply, r = Config.externalHandler id code req s.ext →
    Responded c ⟨r.status.setWidth 32, r.out.w1, r.out.w2, r.out.w3, r.out.w4, r.out.w5, r.out.w6, r.out.w7⟩
      { s with events := s.events ++ [(s.events.length, .handlerCall code)], ext := r.ext } t

/-- From `s` to `t`, LOOP ran `H_PINGDM` as far as it goes in one step, for a request of code `code` from channel `c`: `HandlerCall`, a Ping with value 0 posted, and then, with the semaphore above 0, the semaphore taken and the response that says alive; with it at 0, the check waits and LOOP holds (41_dispatch.md R190; 42_cm2dm.md R260). -/
def RanPingDm (c : Fin 4) (code : Byte) (s t : State) : Prop :=
  ∀ s1 : State, s1 = { s with
      events := s.events ++ [(s.events.length, .handlerCall code)]
      tx := { s.tx with value := vset s.tx.value s.cfg.kindId.ping.toNat 0, pending := vset s.tx.pending s.cfg.kindId.ping.toNat true } } →
    (s.tmr.sem ≠ 0 → Responded c ⟨0, 1, 0, 0, 0, 0, 0, 0⟩ { s1 with tmr := { s.tmr with sem := s.tmr.sem - 1 } } t)
    ∧ (s.tmr.sem = 0 → t = { s1 with
        tmr := { s.tmr with pingWait := true, pingRemaining := s.cfg.pingTimeoutTicks }
        loop := .heldDispatch c
        out := some (.loop, .hold) })

/-- From `s` to `t`, LOOP ran `H_DEBUGNOC` on request `req` of code `code`, taken from channel `c` (43_noc.md R291; 41_dispatch.md R191). A `bad_gddr` out of range: status `ERR_BAD_GDDR` and nothing written but the response. Translation off: CLEAR, then PROGRAM. Else the harvest registers take the request's fields, and COMPUTE and PROGRAM follow, status 0; a broken precondition is noted with op 0x12, the operation that DEBUGNOC runs in (60_exceptions.md R340). -/
def RanDebugNoc (c : Fin 4) (code : Byte) (req : Entry) (s t : State) : Prop :=
  ∀ (d : DbgNoc) (s1 s2 : State), d = dbgNocFields req →
    s1 = { s with events := s.events ++ [(s.events.length, .handlerCall code)] } →
    s2 = { s1 with noc := { s1.noc with
            harvValid := true
            harv := ⟨d.badTensix, d.badGddr, d.skipEth, if s.noc.harvValid then s.noc.harv.ethBad else 0,
                     if s.noc.harvValid then s.noc.harv.pcieEn else 0, d.pcieOverride, d.pcieInstance⟩ } } →
    (d.badGddr ≠ s.cfg.gddrNone ∧ s.cfg.geo.nGddr ≤ d.badGddr.toNat →
      Responded c ⟨s.cfg.errBadGddr.setWidth 32, 0, 0, 0, 0, 0, 0, 0⟩ s1 t)
    ∧ (d.badGddr = s.cfg.gddrNone ∨ d.badGddr.toNat < s.cfg.geo.nGddr →
        (d.enable = false → ∃ u v, exec (.clear .loop) s1 = .next u ∧ exec (.program .loop) u = .next v
            ∧ Responded c ⟨0, 0, 0, 0, 0, 0, 0, 0⟩ v t)
        ∧ (d.enable = true → d.badTensix.extractLsb' 0 14 ≠ 0x3FFF →
            ∃ u v, exec (.compute .loop) s2 = .next u ∧ exec (.program .loop) u = .next v
              ∧ Responded c ⟨0, 0, 0, 0, 0, 0, 0, 0⟩ v t)
        ∧ (d.enable = true → d.badTensix.extractLsb' 0 14 = 0x3FFF →
            (∀ f, f ∈ t.fault ↔ f = ⟨.precond, 0x12, 0⟩ ∨ f ∈ s.fault) ∧ t.noc.precondViolated = true ∧ t.noc.harv = s2.noc.harv
            ∧ ∃ u v, exec (.compute .loop) s2 = .next u ∧ exec (.program .loop) { u with fault := t.fault } = .next v
              ∧ Responded c ⟨0, 0, 0, 0, 0, 0, 0, 0⟩ v t))

/-- The agents that may start an operation (20_memory.md R97, R104; 30_encoding.md R125). Commands and kinds are no port operations. -/
def agentAllowed : Instr → Bool
  | .push a q _ => decide (a = if q.toNat < 4 then .transport else .loop)
  | .pop a q => decide (a = if q.toNat < 4 then .loop else .transport)
  | .stat _ _ => true
  | .reg a _ _ | .start a | .dpass a | .post a _ _ | .pingchk a | .inittick a => decide (a = .loop)
  | .setharv a _ _ _ _ _ | .compute a | .program a | .clear a => decide (a = .loop)
  | .poll a => decide (a = .loop ∨ a = .transport)
  | .readmsg a | .ackin a _ | .msgin a _ => decide (a = .transport)
  | .tick a => decide (a = .timebase)
  | _ => true

/-- One call of a queue operation by the agent whose role it is: `some e` is PUSH, `none` is POP (40_queue.md R162). -/
def queueCall (q : Fin 8) (op : Option Entry) (s : State) : Host.Outcome State Fault Refusal :=
  match op with
  | some e => exec (.push (producer q) (BitVec.ofNat 8 q.val) e) s
  | none => exec (.pop (consumer q) (BitVec.ofNat 8 q.val)) s

/-- What a sequence of queue calls has done so far: the state, the entries accepted with OK and the entries returned as `Some`, oldest first. -/
structure QueueRun where
  state : State
  accepted : List (Fin 8 × Entry)
  returned : List (Fin 8 × Entry)

/-- The run with one more call recorded, by the result the call left. -/
def QueueRun.record (r : QueueRun) (q : Fin 8) (op : Option Entry) (t : State) : QueueRun :=
  match op, t.out with
  | some e, some (_, .result .ok) => ⟨t, r.accepted ++ [(q, e)], r.returned⟩
  | none, some (_, .result (.entry e)) => ⟨t, r.accepted, r.returned ++ [(q, e)]⟩
  | _, _ => ⟨t, r.accepted, r.returned⟩

/-- A sequence of queue calls, each on a queue of its own choice; `none` where one of them stops. -/
def runQueues : List (Fin 8 × Option Entry) → QueueRun → Option QueueRun
  | [], r => some r
  | (q, op) :: ops, r =>
    match queueCall q op r.state with
    | .next t => runQueues ops (r.record q op t)
    | _ => none

/-- The entries of queue `q` in a record of calls. -/
def entriesOf (q : Fin 8) (es : List (Fin 8 × Entry)) : List Entry :=
  (es.filter (fun x => decide (x.1 = q))).map Prod.snd

/-- The state after `n` TICKs of TIMEBASE; `none` where one of them stops. -/
def afterTicks : Nat → State → Option State
  | 0, s => some s
  | n + 1, s =>
    match exec (.tick .timebase) s with
    | .next t => afterTicks n t
    | _ => none

/-- The next step is a TICK of TIMEBASE. -/
def takesTick (s : State) : Bool :=
  match takeInput s with
  | .port a bytes u => decide (decode u.cfg.kindId (.port a) bytes = .ok (.tick .timebase))
  | _ => false

/-- `n` steps, whatever the agents offer: how many of them are TICKs of TIMEBASE, and the state after them; `none` where one of them stops. -/
def runSteps : Nat → State → Option (Nat × State)
  | 0, s => some (0, s)
  | n + 1, s =>
    match step s with
    | .next t => (runSteps n t).map (fun p => (p.1 + (if takesTick s then 1 else 0), p.2))
    | _ => none

/-- The distance of kind `k` from the cursor in the cyclic scan order of SELECT (42_cm2dm.md R213, R220). -/
def scanDistance (s : State) (k : Nat) : Nat := (k + s.cfg.kindCount - s.tx.nextIdRr) % s.cfg.kindCount

/-- The new-message test of 42_cm2dm.md R231: `seq` differs from the last valid one. -/
def isNew (s : State) (seq : Byte) : Prop := s.rx.lastSeqValid = false ∨ seq ≠ s.rx.lastSeq

/-- The next step is not a RESET. -/
def NoReset (s : State) : Prop := ∀ u, takeInput s ≠ .reset u

/-- No pre-translation index is used twice: `FIXED_NODES` overwrites no index that a box, PCIe or another fixed node uses (43_noc.md R284, R293). Narrower than R284's advice, which speaks of the boxes only: two fixed nodes that share a pre column or a pre row, and one that shares PCIe's, are left out too, even where they agree. -/
def FixedNodesApart (geo : Geometry) (nodes : List FixedNode) : Prop :=
  (geo.preXs ++ nodes.map FixedNode.preX).Nodup ∧ (geo.preYs ++ nodes.map FixedNode.preY).Nodup

/-- A node whose logical entry the engine sets: a box's pre coordinate reaches it inside the box's target, or it is the PCIe node or a fixed node (43_noc.md R293). -/
def SetByEngine (geo : Geometry) (nodes : List FixedNode) (h : Harvest) (x y : Nat) : Prop :=
  (∃ b ∈ sweepBoxes geo, ∃ px ∈ b.preX, ∃ py ∈ b.preY,
      x ∈ b.targetX ∧ y ∈ b.targetY ∧ (computedTable geo nodes h).translate px py = (x, y))
    ∨ (x, y) = pciePhys geo (pcieInstance h)
    ∨ ∃ n ∈ nodes, (n.physX, n.physY) = (x, y)

/-- Node (x, y)'s logical entry names a pre-translation coordinate that translates back to it (43_noc.md R293). -/
def RoundTrips (t : Table) (x y : Nat) : Prop :=
  t.translate (unpackCoord (t.logicalAt x y)).1 (unpackCoord (t.logicalAt x y)).2 = (x, y)

end Sys2Proof.Machine
end

