-- ==== Sys2Proof/Certificates/Slice0/Obligations.lean ====
section
/-! DEFINITION. The statements for the provers. Each says which rules of the spec it formalises; `refused` in a title means the spec's refusal, a next state with `S.refused` set (60_exceptions.md R341). -/

section

open Sys2Proof Sys2Proof.Machine

/-! ## Encoding -/

/-- Decoding an encoded well-formed instruction gives it back, for every injective numbering of the kinds (30_encoding.md R112, R114, R115, R125 to R127; the operands' wire form is the model's, notes/assumptions/2.md). -/
def Obligations.DecodeEncodeAgree : Prop :=
  ∀ (ids : KindIds) (i : Instr), ids.wf = true → i.wellFormed = true → decode ids (sourceOf i) (encode ids i) = .ok i

/-- Whatever decodes is well-formed, arrives where it was read, and, but for STAT (whose unused queue byte is free), has these bytes only (30_encoding.md R110, R124 to R127). Where a port operation's operand bytes lie is the model's choice (notes/assumptions/2.md, 21.md). -/
def Obligations.DecodedIsInstruction : Prop :=
  ∀ (ids : KindIds) (src : Source) (bs : List Byte) (i : Instr), decode ids src bs = .ok i →
    i.wellFormed = true ∧ sourceOf i = src ∧ ((∀ a v, i ≠ .stat a v) → encode ids i = bs)

/-- An unknown selector, a queue index outside 0..7, an unknown view, and an ACK2 or CM2DM6 operand of a wrong length are refused: `refused` is set and nothing else of the block is written (30_encoding.md R124, R128; 40_queue.md R153; 60_exceptions.md R341). Where the operand bytes lie is the model's choice (notes/assumptions/2.md, 16.md). -/
def Obligations.IllegalBytesRefused : Prop :=
  ∀ (a : Agent) (bytes : List Byte),
    (∃ op ops, bytes = op :: ops ∧
        op ∉ ([0x01, 0x02, 0x03, 0x10, 0x11, 0x12, 0x20, 0x21, 0x22, 0x23, 0x24, 0x25, 0x26, 0x30, 0x40, 0x41, 0x42, 0x43] : List Byte))
      ∨ (∃ q ops, (bytes = 0x01 :: q :: ops ∨ bytes = 0x02 :: q :: ops ∨ bytes = 0x03 :: 0 :: q :: ops) ∧ 8 ≤ q.toNat)
      ∨ (∃ v ops, bytes = 0x03 :: v :: ops ∧ 8 ≤ v.toNat)
      ∨ (∃ ops, bytes = 0x23 :: ops ∧ ops.length ≠ 2)
      ∨ (∃ ops, bytes = 0x24 :: ops ∧ ops.length ≠ 6) →
    ∀ s u : State, takeInput s = .port a bytes u → step s = .next { u with refused := true, out := some (a, .refusal) }

/-- A few words of the spec decode to what they stand for: selectors of R125, command codes of R126, kinds of R127, the POLL record `03 01 37 00 00 00` of 42_cm2dm.md R212 and the DEBUGNOC request of 43_noc.md R291. Where a port operation's operand bytes lie is the model's choice (notes/assumptions/2.md). -/
def Obligations.SpecWordsDecode : Prop :=
  decode .reference (.port .loop) [0x11] = .ok (.start .loop)
    ∧ decode .reference (.port .timebase) [0x30] = .ok (.tick .timebase)
    ∧ decode .reference (.port .loop) [0x20, 0x03, 0x2A, 0, 0, 0] = .ok (.post .loop 3 42)
    ∧ decode .reference (.port .transport) [0x23, 0x03, 0x01] = .ok (.ackin .transport ⟨3, 1⟩)
    ∧ decode .reference (.port .loop) [0x40, 0x08, 0x02, 0xFF, 0, 0, 0, 0, 0x01] = .ok (.setharv .loop 0x0208 0xFF 0 0 1)
    ∧ decode .reference .record [0x03, 0x01, 0x37, 0, 0, 0] = .ok (.fanSpeedUpdate 1 55)
    ∧ decode .reference (.request 0)
        [0xDE, 0x01, 0x08, 0x02, 0xFF, 0x01, 0x20, 0, 0, 0, 0, 0, 0, 0, 0, 0, 0, 0, 0, 0, 0, 0, 0, 0, 0, 0, 0, 0, 0, 0, 0, 0]
        = .ok (.debugNocTranslation 0 ⟨0x020801, 0x002001FF, 0, 0, 0, 0, 0, 0⟩)

/-- `STATIC24`: six little-endian words at byte offsets 0, 4, 8, 12, 16 and 20, and no other length is such a record; `LCOORD16`: x in bits 5..0, y in bits 11..6, bits 15..12 zero (30_encoding.md R116, R119). -/
def Obligations.RecordLayouts : Prop :=
  (∀ i : StaticInfo, staticOfBytes (staticBytes i) = some i ∧ (staticBytes i).length = 24
      ∧ wordAt (staticBytes i) 0 = i.version ∧ wordAt (staticBytes i) 1 = i.bootloaderVersion
      ∧ wordAt (staticBytes i) 2 = i.appVersion ∧ wordAt (staticBytes i) 3 = i.startTime
      ∧ wordAt (staticBytes i) 4 = i.initDuration ∧ wordAt (staticBytes i) 5 = i.lastFaultPc)
    ∧ (∀ bs, bs.length = 24 → ∃ i, staticOfBytes bs = some i ∧ staticBytes i = bs)
    ∧ (∀ bs, bs.length ≠ 24 → staticOfBytes bs = none)
    ∧ ∀ x y : Nat, x < 64 → y < 64 →
        (packCoord x y).toNat = y * 64 + x ∧ unpackCoord (packCoord x y) = (x, y) ∧ (packCoord x y).extractLsb' 12 4 = 0

/-- The fields of a `DBGNOC` request are read where R117 puts them, and the bits that R130 calls ignored change no outcome: neither the fields, nor the tables, nor the violated classes. `eth_bad` is read by no rule (10_state.md R51). -/
def Obligations.IgnoredBitsChangeNothing : Prop :=
  (∀ d : DbgNoc, dbgNocFields (dbgNocRequest d) = d)
    ∧ (∀ e f : Entry, (∀ k, k < 32 → ¬(11 ≤ k ∧ k < 16) → e.w0.getLsbD k = f.w0.getLsbD k) →
        (∀ k, k < 24 → e.w1.getLsbD k = f.w1.getLsbD k) → dbgNocFields e = dbgNocFields f)
    ∧ ∀ (p : Params) (h k : Harvest), (∀ i, i < 14 → h.tensixBad.getLsbD i = k.tensixBad.getLsbD i) →
        (∀ l, l < p.geo.ethX.length → h.skipEth.getLsbD l = k.skipEth.getLsbD l) →
        h.gddrBad = k.gddrBad → h.pcieEn = k.pcieEn → h.pcieOverride = k.pcieOverride → h.pcieSel = k.pcieSel →
        computedTable p.geo p.fixedNodes h = computedTable p.geo p.fixedNodes k ∧ violatedClasses p h = violatedClasses p k

/-! ## Ring queues -/

/-- PUSH, all of its cases: refused for an agent that is not the producer and for an index outside 0..7; OK with the entry in slot `wp mod C` and `wp` moved on where there is room; FULL with nothing written where there is none (40_queue.md R151, R158). -/
def Obligations.PushMeaning : Prop :=
  ∀ (a : Agent) (b : Byte) (e : Entry) (s : State),
    (8 ≤ b.toNat → exec (.push a b e) s = .next { s with refused := true, out := some (a, .refusal) })
    ∧ ∀ q : Fin 8, q.val = b.toNat →
        (a ≠ producer q → exec (.push a b e) s = .next { s with refused := true, out := some (a, .refusal) })
        ∧ (a = producer q → s.cfg.queueCapacity ≤ s.occ q → exec (.push a b e) s = .next { s with out := some (a, .result .full) })
        ∧ (a = producer q → s.occ q < s.cfg.queueCapacity →
            ∃ t, exec (.push a b e) s = .next t ∧ StoredEntry q e s t
              ∧ t = { s with mem := t.mem, rmq := t.rmq, out := some (a, .result .ok) })

/-- POP, all of its cases: refused for an agent that is not the consumer and for an index outside 0..7; NONE with nothing written where `wp = rp`; else the entry of slot `rp mod C`, with `rp` moved on and nothing else written, the slot included (40_queue.md R152, R157). -/
def Obligations.PopMeaning : Prop :=
  ∀ (a : Agent) (b : Byte) (s : State),
    (8 ≤ b.toNat → exec (.pop a b) s = .next { s with refused := true, out := some (a, .refusal) })
    ∧ ∀ q : Fin 8, q.val = b.toNat →
        (a ≠ consumer q → exec (.pop a b) s = .next { s with refused := true, out := some (a, .refusal) })
        ∧ (a = consumer q → s.rmq[q].wp = s.rmq[q].rp → exec (.pop a b) s = .next { s with out := some (a, .result .none) })
        ∧ (a = consumer q → s.rmq[q].wp ≠ s.rmq[q].rp → ∀ e, s.headEntry q = some e →
            exec (.pop a b) s = .next { s.taken q with out := some (a, .result (.entry e)) })

/-- Taking an entry from a slot that nothing has written stops the model, with a fault that names the queue and the slot: in POP, in DPASS and in each DSTEP of an open pass. Nothing else stops it: `exec` and `step` have no other fault, and never answer the model's own refusal (10_state.md, opening: a read before a write is a fault in the model; notes/assumptions/6.md). -/
def Obligations.UnwrittenSlotStops : Prop :=
  ∀ s : State,
    (∀ q : Fin 8, s.rmq[q].wp ≠ s.rmq[q].rp → s.headEntry q = none →
      exec (.pop (consumer q) (BitVec.ofNat 8 q.val)) s = .fault (.unwrittenSlot q.val (s.rmq[q].rp % s.cfg.queueCapacity)))
    ∧ (s.disp.phase = .run → s.rmq[reqQueue 0].wp ≠ s.rmq[reqQueue 0].rp → s.headEntry (reqQueue 0) = none →
      exec (.dpass .loop) s = .fault (.unwrittenSlot 0 (s.rmq[reqQueue 0].rp % s.cfg.queueCapacity)))
    ∧ (∀ (u : State) (c : Fin 4), takeInput s = .loopGoes u → u.loop = .pass c → s.disp.phase = .run →
      s.rmq[reqQueue c].wp ≠ s.rmq[reqQueue c].rp → s.headEntry (reqQueue c) = none →
      step s = .fault (.unwrittenSlot c.val (s.rmq[reqQueue c].rp % s.cfg.queueCapacity)))
    ∧ (∀ (i : Instr) (f : Fault), exec i s = .fault f →
        ∃ q : Fin 8, s.rmq[q].wp ≠ s.rmq[q].rp ∧ s.headEntry q = none ∧ f = .unwrittenSlot q.val (s.rmq[q].rp % s.cfg.queueCapacity))
    ∧ (∀ f : Fault, step s = .fault f →
        ∃ q : Fin 8, s.rmq[q].wp ≠ s.rmq[q].rp ∧ s.headEntry q = none ∧ f = .unwrittenSlot q.val (s.rmq[q].rp % s.cfg.queueCapacity))
    ∧ ∀ r : Refusal, (∀ i : Instr, exec i s ≠ .refused r) ∧ step s ≠ .refused r

/-- STAT returns the fields that 10_state.md R59 lists for the view, with `occ`, `empty` and `full` as R34 derives them, and writes nothing; a queue index outside 0..7 is refused (40_queue.md R153; 30_encoding.md R124). A fault record reads as its code's number, 1 to 5 in the order of 60_exceptions.md R342, with `op` and `info` (10_state.md R54). The model's choices: that a field with no value reads as none, and that `ping_result` counts as one until a check has ended (notes/assumptions/7.md, 16.md). That every agent may start STAT, HANDLER too, is read from R125 (notes/assumptions/17.md, DEDUCED). -/
def Obligations.StatMeaning : Prop :=
  ∀ (a : Agent) (s : State),
    (∀ q : Byte, 8 ≤ q.toNat → exec (.stat a (.qstat q)) s = .next { s with refused := true, out := some (a, .refusal) })
    ∧ (∀ q : Fin 8, exec (.stat a (.qstat (BitVec.ofNat 8 q.val))) s = .next { s with out := some (a, .result (.view
      (.qstat s.rmq[q].wp s.rmq[q].rp (s.occ q) (decide (s.occ q = 0)) (decide (s.occ q = s.cfg.queueCapacity))))) })
    ∧ exec (.stat a .dstat) s = .next { s with out := some (a, .result (.view
        (.dstat s.disp.phase ((List.range 256).map (fun t => (vget s.disp.table t none).isSome))))) }
    ∧ exec (.stat a .txstat) s = .next { s with out := some (a, .result (.view
        (.txstat ((List.range s.cfg.kindCount).map (fun k => vget s.tx.pending k false)) s.tx.inflight.valid
          (if s.tx.inflight.valid then some s.tx.inflight.kind else none) (if s.tx.inflight.valid then some s.tx.inflight.seq else none)
          (if s.tx.inflight.valid then some s.tx.inflight.data else none) s.tx.seq s.tx.nextIdRr))) }
    ∧ exec (.stat a .rxstat) s = .next { s with out := some (a, .result (.view
        (.rxstat s.rx.lastSeqValid (if s.rx.lastSeqValid then some s.rx.lastSeq else none)
          s.rx.dupLogValid (if s.rx.dupLogValid then some s.rx.dupLogSeq else none)))) }
    ∧ exec (.stat a .tmrstat) s = .next { s with out := some (a, .result (.view
        (.tmrstat s.tmr.wdArmed s.tmr.wdTimeout s.tmr.wdRemaining s.tmr.rstPending s.tmr.rstRemaining s.tmr.rstArg s.tmr.rstOut
          s.tmr.sem s.tmr.pingWait s.tmr.pingRemaining (if s.tmr.pingHasResult then some s.tmr.pingResult else none)))) }
    ∧ exec (.stat a .gstat) s = .next { s with out := some (a, .result (.view (.gstat s.gate.needsInit))) }
    ∧ exec (.stat a .nocstat) s = .next { s with out := some (a, .result (.view
        (.nocstat s.noc.harvValid (if s.noc.harvValid then some s.noc.harv else none) s.noc.precondViolated))) }
    ∧ exec (.stat a .fstat) s = .next { s with out := some (a, .result (.view
        (.fstat (s.fault.map (fun f => (f.code.number, f.op, f.info))) s.refused))) }
    ∧ [FaultCode.regAfterStart, .dupHandler, .dispatchBeforeStart, .badKind, .precond].map FaultCode.number = [1, 2, 3, 4, 5]

/-- From empty queues, after any sequence of PUSH and POP calls: what was accepted on a queue is what was returned followed by what it holds, in order; the pointers count the calls modulo 2C; and the occupancy is exact and never above C (40_queue.md R154 to R156). -/
def Obligations.QueuesAreFifo : Prop :=
  ∀ (s : State) (ops : List (Fin 8 × Option Entry)),
    1 ≤ s.cfg.queueCapacity → (∀ q : Fin 8, s.rmq[q] = ⟨0, 0⟩) →
    ∃ r, runQueues ops ⟨s, [], []⟩ = some r ∧ ∀ q : Fin 8,
      (entriesOf q r.accepted).map some = (entriesOf q r.returned).map some ++ queueContents r.state q
      ∧ r.state.rmq[q].wp = (entriesOf q r.accepted).length % (2 * s.cfg.queueCapacity)
      ∧ r.state.rmq[q].rp = (entriesOf q r.returned).length % (2 * s.cfg.queueCapacity)
      ∧ r.state.occ q + (entriesOf q r.returned).length = (entriesOf q r.accepted).length
      ∧ r.state.occ q ≤ s.cfg.queueCapacity

/-- Whatever the step is, RESET apart, a queue only gains one entry at its end, loses its oldest one, or holds what it held: no entry is duplicated, lost, altered or reordered (40_queue.md R155). -/
def Obligations.StepKeepsQueueOrder : Prop :=
  ∀ (s t : State) (q : Fin 8), 1 ≤ s.cfg.queueCapacity → QueueBounded s q → NoReset s → step s = .next t →
    queueContents t q = queueContents s q
      ∨ (∃ e, queueContents t q = queueContents s q ++ [some e])
      ∨ ∃ e, queueContents s q = some e :: queueContents t q

/-! ## Dispatch -/

/-- REG, all of its cases: refused for another agent; `REG_AFTER_START(t)` once the phase is RUN; `DUP_HANDLER(t)` where `t` has a handler, which stays; else entry `t` of the table names `h` (41_dispatch.md R180, R193). A fault adds its record and writes nothing else. -/
def Obligations.RegMeaning : Prop :=
  ∀ (a : Agent) (t : Byte) (h : HandlerName) (s : State),
    (a ≠ .loop → exec (.reg a t h) s = .next { s with refused := true, out := some (a, .refusal) })
    ∧ (a = .loop → s.disp.phase = .run → ∃ u, exec (.reg a t h) s = .next u
        ∧ (∀ f, f ∈ u.fault ↔ f = ⟨.regAfterStart, 0x10, t⟩ ∨ f ∈ s.fault)
        ∧ u = { s with fault := u.fault, out := some (a, .fault ⟨.regAfterStart, 0x10, t⟩) })
    ∧ (a = .loop → s.disp.phase = .init → vget s.disp.table t.toNat none ≠ none → ∃ u, exec (.reg a t h) s = .next u
        ∧ (∀ f, f ∈ u.fault ↔ f = ⟨.dupHandler, 0x10, t⟩ ∨ f ∈ s.fault)
        ∧ u = { s with fault := u.fault, out := some (a, .fault ⟨.dupHandler, 0x10, t⟩) })
    ∧ (a = .loop → s.disp.phase = .init → vget s.disp.table t.toNat none = none → ∃ u, exec (.reg a t h) s = .next u
        ∧ (∀ k : Byte, vget u.disp.table k.toNat none = if k = t then some h else vget s.disp.table k.toNat none)
        ∧ u = { s with disp := { s.disp with table := u.disp.table }, out := some (a, .result .ok) })

/-- START: the phase becomes RUN, whatever it was; refused for another agent (41_dispatch.md R181). -/
def Obligations.StartMeaning : Prop :=
  ∀ (a : Agent) (s : State),
    (a ≠ .loop → exec (.start a) s = .next { s with refused := true, out := some (a, .refusal) })
    ∧ (a = .loop → exec (.start a) s = .next { s with disp := { s.disp with phase := .run }, out := some (a, .result .ok) })

/-- DPASS as far as `DSTEP(0)`: refused for another agent; `DISPATCH_BEFORE_START` in INIT; with REQ0 empty, OK and on to channel 1; else the oldest request of REQ0 is taken and dispatched: as its command where the code is a named one, with the zero response where no handler is registered, and to the external handler where one is (41_dispatch.md R182, R185, R187). The events' numbers are the model's choice (notes/assumptions/15.md). -/
def Obligations.DpassMeaning : Prop :=
  ∀ (a : Agent) (s : State),
    (a ≠ .loop → exec (.dpass a) s = .next { s with refused := true, out := some (a, .refusal) })
    ∧ (a = .loop → s.disp.phase = .init → ∃ u, exec (.dpass a) s = .next u
        ∧ (∀ f, f ∈ u.fault ↔ f = ⟨.dispatchBeforeStart, 0x12, 0⟩ ∨ f ∈ s.fault)
        ∧ u = { s with fault := u.fault, loop := .idle, out := some (a, .fault ⟨.dispatchBeforeStart, 0x12, 0⟩) })
    ∧ (a = .loop → s.disp.phase = .run → s.rmq[reqQueue 0].wp = s.rmq[reqQueue 0].rp →
        exec (.dpass a) s = .next { s with loop := .pass 1, out := some (a, .result .ok) })
    ∧ ∀ e, a = .loop → s.disp.phase = .run → s.rmq[reqQueue 0].wp ≠ s.rmq[reqQueue 0].rp → s.headEntry (reqQueue 0) = some e →
        (∀ i, decodeEntry 0 e = .ok i → exec (.dpass a) s = exec i (s.taken (reqQueue 0)))
        ∧ (vget s.disp.table (requestCode e).toNat none = none →
            ∃ t, exec (.dpass a) s = .next t ∧ Responded 0 Entry.zero (s.taken (reqQueue 0)) t)
        ∧ (∀ (id : Byte) (r : HandlerReply), vget s.disp.table (requestCode e).toNat none = some (.external id) →
            r = Config.externalHandler id (requestCode e) e s.ext →
            ∃ t, exec (.dpass a) s = .next t
              ∧ Responded 0 ⟨r.status.setWidth 32, r.out.w1, r.out.w2, r.out.w3, r.out.w4, r.out.w5, r.out.w6, r.out.w7⟩
                  { s.taken (reqQueue 0) with events := s.events ++ [(s.events.length, .handlerCall (requestCode e))], ext := r.ext } t)

/-- A DSTEP, as DPASS runs it on channel 0 and as LOOP goes on with an open pass on channel `c`: it takes at most one request, from REQc, and then channel `c + 1` is next, or the pass is over after channel 3. A request runs as its command where its code is a named one; whatever its code, it gets the zero response where no handler is registered, and else its handler runs: the external one, `H_PINGDM`, or `H_DEBUGNOC` (41_dispatch.md R182, R185, R187, R190, R191; 30_encoding.md R129). The events' numbers and LOOP's place are the model's (notes/assumptions/12.md, 13.md, 15.md). -/
def Obligations.PassGoesOn : Prop :=
  ∀ (u : State) (c : Fin 4) (o : Host.Outcome State Fault Refusal),
    (c = 0 ∧ o = exec (.dpass .loop) u) ∨ (∃ s, takeInput s = .loopGoes u ∧ u.loop = .pass c ∧ o = step s) →
    u.disp.phase = .run →
    (u.rmq[reqQueue c].wp = u.rmq[reqQueue c].rp →
      o = .next { u with loop := if c = 3 then .idle else .pass (c + 1), out := some (.loop, .result .ok) })
    ∧ ∀ e, u.rmq[reqQueue c].wp ≠ u.rmq[reqQueue c].rp → u.headEntry (reqQueue c) = some e →
        (∀ i, decodeEntry c e = .ok i → o = exec i (u.taken (reqQueue c)))
        ∧ (vget u.disp.table (requestCode e).toNat none = none →
            ∃ t, o = .next t ∧ Responded c Entry.zero (u.taken (reqQueue c)) t)
        ∧ (∀ id : Byte, vget u.disp.table (requestCode e).toNat none = some (.external id) →
            ∃ t, o = .next t ∧ RanExternal c id (requestCode e) e (u.taken (reqQueue c)) t)
        ∧ (vget u.disp.table (requestCode e).toNat none = some .pingDM →
            ∃ t, o = .next t ∧ RanPingDm c (requestCode e) (u.taken (reqQueue c)) t)
        ∧ (vget u.disp.table (requestCode e).toNat none = some .debugNoc →
            ∃ t, o = .next t ∧ RanDebugNoc c (requestCode e) e (u.taken (reqQueue c)) t)

/-- A request whose code has no handler gets the zero response: no handler call, no event but a dropped response's, no other effect; for each of the six commands (41_dispatch.md R187). The events' numbers are the model's choice (notes/assumptions/15.md). -/
def Obligations.UnregisteredZero : Prop :=
  ∀ (c : Fin 4) (code : Byte) (p : Payload) (i : Instr) (s : State), decodeCommand c code p = .ok i →
    vget s.disp.table code.toNat none = none → ∃ t, exec i s = .next t ∧ Responded c ⟨0, 0, 0, 0, 0, 0, 0, 0⟩ s t

/-- A command registered to an external handler: `HandlerCall`, the handler run once on the request and the external state, and a response whose word 0 is the zero-extended status and whose other words are the handler's, whatever the status; for each of the six commands (41_dispatch.md R182, R183, R188, R189). The handlers' form and the events' numbers are the model's choice (notes/assumptions/10.md, 15.md). -/
def Obligations.ExternalHandlerResponds : Prop :=
  ∀ (c : Fin 4) (code : Byte) (p : Payload) (i : Instr) (id : Byte) (r : HandlerReply) (s : State), decodeCommand c code p = .ok i →
    vget s.disp.table code.toNat none = some (.external id) → r = Config.externalHandler id code (requestEntry code p) s.ext →
    ∃ t, exec i s = .next t
      ∧ Responded c ⟨r.status.setWidth 32, r.out.w1, r.out.w2, r.out.w3, r.out.w4, r.out.w5, r.out.w6, r.out.w7⟩
          { s with events := s.events ++ [(s.events.length, .handlerCall code)], ext := r.ext } t

/-- A command registered to `H_PINGDM`: a Ping with value 0 is posted; with the semaphore above 0 it is taken and the response says alive; with it at 0 the check starts to wait and LOOP holds (41_dispatch.md R190; 42_cm2dm.md R260). The events' numbers are the model's choice (notes/assumptions/15.md). -/
def Obligations.PingDmStarts : Prop :=
  ∀ (c : Fin 4) (code : Byte) (p : Payload) (i : Instr) (s : State), decodeCommand c code p = .ok i →
    vget s.disp.table code.toNat none = some .pingDM →
    (s.tmr.sem ≠ 0 → ∃ t, exec i s = .next t
      ∧ Responded c ⟨0, 1, 0, 0, 0, 0, 0, 0⟩
          { s with
            events := s.events ++ [(s.events.length, .handlerCall code)]
            tx := { s.tx with value := vset s.tx.value s.cfg.kindId.ping.toNat 0, pending := vset s.tx.pending s.cfg.kindId.ping.toNat true }
            tmr := { s.tmr with sem := s.tmr.sem - 1 } } t)
    ∧ (s.tmr.sem = 0 → exec i s = .next
        { s with
          events := s.events ++ [(s.events.length, .handlerCall code)]
          tx := { s.tx with value := vset s.tx.value s.cfg.kindId.ping.toNat 0, pending := vset s.tx.pending s.cfg.kindId.ping.toNat true }
          tmr := { s.tmr with pingWait := true, pingRemaining := s.cfg.pingTimeoutTicks }
          loop := .heldDispatch c
          out := some (.loop, .hold) })

/-- When the hold of `H_PINGDM` is lifted, LOOP's next step ends the DSTEP: status 0, and word 1 says whether the peer answered before the timeout (41_dispatch.md R190; 30_encoding.md R118). The events' numbers are the model's choice (notes/assumptions/15.md). -/
def Obligations.PingDmResumes : Prop :=
  ∀ (s u : State) (c : Fin 4), takeInput s = .loopGoes u → u.loop = .heldDispatch c →
    ∃ t, step s = .next t ∧ Responded c ⟨0, if u.tmr.pingResult = .alive then 1 else 0, 0, 0, 0, 0, 0, 0⟩ u t

/-- DebugNocTranslation where `H_DEBUGNOC` is registered, and every other command registered to it, completes. A `bad_gddr` out of range: status `ERR_BAD_GDDR` and nothing written but the response. With `enable_translation = 0`: CLEAR, then PROGRAM. Else the harvest registers take the request's fields, and COMPUTE and PROGRAM follow; with every compute column bad they follow too, `PRECOND(TENSIX)` is recorded with op 0x12, and the status is 0 all the same (43_noc.md R291; 41_dispatch.md R185, R191; 60_exceptions.md R340). The events' numbers are the model's choice (notes/assumptions/15.md). -/
def Obligations.DebugNocCommand : Prop :=
  (∀ (c : Fin 4) (p : Payload) (s : State), vget s.disp.table 0xDE none = some .debugNoc →
    ∃ t, exec (.debugNocTranslation c p) s = .next t ∧ RanDebugNoc c 0xDE (requestEntry 0xDE p) s t)
  ∧ ∀ (c : Fin 4) (code : Byte) (p : Payload) (i : Instr) (s : State), decodeCommand c code p = .ok i →
    vget s.disp.table code.toNat none = some .debugNoc →
    ∃ t, exec i s = .next t ∧ RanDebugNoc c code (requestEntry code p) s t

/-! ## CM2DM, transmit half -/

/-- POST, all of its cases: refused for another agent; `BAD_KIND(k)` for Null and for a kind at or above `KIND_COUNT`; else the kind's value and pending bit are set, the in-flight record left alone (42_cm2dm.md R210, R211). -/
def Obligations.PostMeaning : Prop :=
  ∀ (a : Agent) (k : Byte) (v : Word) (s : State),
    (a ≠ .loop → exec (.post a k v) s = .next { s with refused := true, out := some (a, .refusal) })
    ∧ (a = .loop → k = 0 ∨ s.cfg.kindCount ≤ k.toNat → ∃ u, exec (.post a k v) s = .next u
        ∧ (∀ f, f ∈ u.fault ↔ f = ⟨.badKind, 0x20, k⟩ ∨ f ∈ s.fault)
        ∧ u = { s with fault := u.fault, out := some (a, .fault ⟨.badKind, 0x20, k⟩) })
    ∧ (a = .loop → k ≠ 0 → k.toNat < s.cfg.kindCount → ∃ u, exec (.post a k v) s = .next u
        ∧ (∀ j : Byte, vget u.tx.value j.toNat 0 = if j = k then v else vget s.tx.value j.toNat 0)
        ∧ (∀ j : Byte, vget u.tx.pending j.toNat false = if j = k then true else vget s.tx.pending j.toNat false)
        ∧ u = { s with tx := { s.tx with value := u.tx.value, pending := u.tx.pending }, out := some (a, .result .ok) })

/-- POLL, all of its cases: refused for an agent other than LOOP and TRANSPORT; with a message in flight, that message and nothing written; with nothing in flight and nothing pending, the Null record and nothing written; else the pending kind that comes first from the cursor goes in flight with the next sequence number (42_cm2dm.md R212 to R214). -/
def Obligations.PollMeaning : Prop :=
  ∀ (a : Agent) (s : State),
    (a ≠ .loop → a ≠ .transport → exec (.poll a) s = .next { s with refused := true, out := some (a, .refusal) })
    ∧ (a = .loop ∨ a = .transport →
        (s.tx.inflight.valid = true → exec (.poll a) s =
          .next { s with out := some (a, .result (.record ⟨s.tx.inflight.kind, s.tx.inflight.seq, s.tx.inflight.data⟩)) })
        ∧ (s.tx.inflight.valid = false → (∀ k, k < s.cfg.kindCount → vget s.tx.pending k false = false) →
            exec (.poll a) s = .next { s with out := some (a, .result (.record ⟨0, 0, 0⟩)) })
        ∧ ∀ k, s.tx.inflight.valid = false → s.tx.nextIdRr < s.cfg.kindCount → k < s.cfg.kindCount → vget s.tx.pending k false = true →
            (∀ j, j < s.cfg.kindCount → vget s.tx.pending j false = true → scanDistance s k ≤ scanDistance s j) →
            ∃ t, exec (.poll a) s = .next t
              ∧ (∀ j, vget t.tx.pending j false = if j = k then false else vget s.tx.pending j false)
              ∧ t = { s with
                  tx := { s.tx with
                    pending := t.tx.pending
                    seq := s.tx.seq + 1
                    inflight := ⟨true, BitVec.ofNat 8 k, s.tx.seq + 1, vget s.tx.value k 0⟩
                    nextIdRr := (k + 1) % s.cfg.kindCount }
                  out := some (a, .result (.record ⟨BitVec.ofNat 8 k, s.tx.seq + 1, vget s.tx.value k 0⟩)) })

/-- Bounded waiting: a pending kind is chosen by a POLL that selects, or it stays pending and comes closer to the cursor; the distance is below `KIND_COUNT` (42_cm2dm.md R220). -/
def Obligations.PendingKindComesCloser : Prop :=
  ∀ (a : Agent) (s t : State) (k : Nat), s.tx.inflight.valid = false → s.tx.nextIdRr < s.cfg.kindCount →
    k < s.cfg.kindCount → vget s.tx.pending k false = true → agentAllowed (.poll a) = true → exec (.poll a) s = .next t →
    scanDistance s k < s.cfg.kindCount
      ∧ (t.tx.inflight.kind = BitVec.ofNat 8 k ∨ (vget t.tx.pending k false = true ∧ scanDistance t k < scanDistance s k))

/-- READMSG returns the in-flight message, or the Null record, and writes nothing; and while a message is in flight POLL and READMSG return that same record (42_cm2dm.md R214, R215). -/
def Obligations.ReadmsgAndRedelivery : Prop :=
  ∀ (a : Agent) (s : State),
    (a ≠ .transport → exec (.readmsg a) s = .next { s with refused := true, out := some (a, .refusal) })
    ∧ (a = .transport → s.tx.inflight.valid = false → exec (.readmsg a) s = .next { s with out := some (a, .result (.record ⟨0, 0, 0⟩)) })
    ∧ (s.tx.inflight.valid = true → ∀ m : Record, m = ⟨s.tx.inflight.kind, s.tx.inflight.seq, s.tx.inflight.data⟩ →
        (a = .transport → exec (.readmsg a) s = .next { s with out := some (a, .result (.record m)) })
        ∧ (a = .loop ∨ a = .transport → exec (.poll a) s = .next { s with out := some (a, .result (.record m)) }))

/-- ACKIN, all of its cases: refused for another agent; discarded where kind or sequence number differs or nothing is in flight; else the record retires, and a Ping's or PingV2's ack gives the semaphore: to a waiting check, or by counting up to `SEM_MAX` (42_cm2dm.md R216, R217, R259). The events' numbers and `pingHasResult` are the model's (notes/assumptions/7.md, 15.md). -/
def Obligations.AckinMeaning : Prop :=
  ∀ (a : Agent) (k : Ack) (s : State),
    (a ≠ .transport → exec (.ackin a k) s = .next { s with refused := true, out := some (a, .refusal) })
    ∧ (a = .transport →
        (¬(s.tx.inflight.valid = true ∧ k.id = s.tx.inflight.kind ∧ k.seq = s.tx.inflight.seq) →
          exec (.ackin a k) s = .next { s with out := some (a, .result .ok) })
        ∧ (s.tx.inflight.valid = true ∧ k.id = s.tx.inflight.kind ∧ k.seq = s.tx.inflight.seq →
            (k.id ≠ s.cfg.kindId.ping → k.id ≠ s.cfg.kindId.pingV2 → exec (.ackin a k) s = .next
              { s with tx := { s.tx with inflight := { s.tx.inflight with valid := false } }, out := some (a, .result .ok) })
            ∧ (k.id = s.cfg.kindId.ping ∨ k.id = s.cfg.kindId.pingV2 → s.tmr.pingWait = true → exec (.ackin a k) s = .next
              { s with
                tx := { s.tx with inflight := { s.tx.inflight with valid := false } }
                tmr := { s.tmr with pingWait := false, pingResult := .alive, pingHasResult := true }
                events := s.events ++ [(s.events.length, .pingGive)]
                out := some (a, .result .ok) })
            ∧ (k.id = s.cfg.kindId.ping ∨ k.id = s.cfg.kindId.pingV2 → s.tmr.pingWait = false → ∃ t, exec (.ackin a k) s = .next t
              ∧ t.tmr.sem.toNat = min (s.tmr.sem.toNat + 1) s.cfg.semMax.toNat
              ∧ t = { s with
                  tx := { s.tx with inflight := { s.tx.inflight with valid := false } }
                  tmr := { s.tmr with sem := t.tmr.sem }
                  events := s.events ++ [(s.events.length, .pingGive)]
                  out := some (a, .result .ok) })))

/-- Last value wins: posting `k, v1` and then `k, v2` leaves what posting `k, v2` alone leaves; and a POST, of the in-flight kind too, leaves the in-flight record alone (42_cm2dm.md R219, R221). -/
def Obligations.LastValueWins : Prop :=
  ∀ (k : Byte) (v1 v2 : Word) (s t : State), k ≠ 0 → k.toNat < s.cfg.kindCount → exec (.post .loop k v1) s = .next t →
    exec (.post .loop k v2) t = exec (.post .loop k v2) s ∧ t.tx.inflight = s.tx.inflight

/-- One message in flight: over any step, RESET apart, the in-flight record stays as it is or retires, and a new one appears only where none was valid, with the sequence number one above the last; nothing else moves the sequence counter (42_cm2dm.md R218, R222). -/
def Obligations.InflightSequence : Prop :=
  ∀ s t : State, NoReset s → step s = .next t →
    (t.tx.seq = s.tx.seq ∧ (t.tx.inflight = s.tx.inflight ∨ t.tx.inflight = { s.tx.inflight with valid := false }))
      ∨ (s.tx.inflight.valid = false ∧ t.tx.seq = s.tx.seq + 1 ∧ t.tx.inflight.valid = true ∧ t.tx.inflight.seq = s.tx.seq + 1)

/-! ## CM2DM, receive half -/

/-- The Null record: NONE, no ack, no state, by MSGIN and as the kind Null. A new message of an unknown kind: acknowledged and remembered for deduplication, no kind effect, nothing stored. MSGIN is refused for an agent other than TRANSPORT (42_cm2dm.md R230, R232, R241). The events' numbers are the model's choice (notes/assumptions/15.md). -/
def Obligations.KindsWithoutEffect : Prop :=
  ∀ (seq : Byte) (data : Word) (s : State),
    exec (.nullMsg seq data) s = .next { s with out := some (.transport, .result .none) }
    ∧ exec (.msgin .transport ⟨0, seq, data⟩) s = .next { s with out := some (.transport, .result .none) }
    ∧ (∀ id : Byte, id ≠ 0 → s.cfg.kindCount ≤ id.toNat → isNew s seq → exec (.msgin .transport ⟨id, seq, data⟩) s = .next
        { s with
          rx := { s.rx with lastSeqValid := true, lastSeq := seq, dupLogValid := false }
          events := s.events ++ [(s.events.length, .ackOut id seq)]
          out := some (.transport, .result (.ack ⟨id, seq⟩)) })
    ∧ ∀ (a : Agent) (m : Record), a ≠ .transport → exec (.msgin a m) s = .next { s with refused := true, out := some (a, .refusal) }

/-- A duplicate, whatever its kind: acknowledged, logged once per value, no kind effect, and `last_seq` as it is (42_cm2dm.md R231, R233, R234). The events' numbers are the model's choice (notes/assumptions/15.md). -/
def Obligations.DuplicateInbound : Prop :=
  ∀ (m : Record) (s : State), m.id ≠ 0 → s.rx.lastSeqValid = true → m.seq = s.rx.lastSeq →
    (s.rx.dupLogValid = true ∧ s.rx.dupLogSeq = m.seq → exec (.msgin .transport m) s = .next
      { s with events := s.events ++ [(s.events.length, .ackOut m.id m.seq)], out := some (.transport, .result (.ack ⟨m.id, m.seq⟩)) })
    ∧ (s.rx.dupLogValid = false ∨ s.rx.dupLogSeq ≠ m.seq → exec (.msgin .transport m) s = .next
      { s with
        rx := { s.rx with dupLogValid := true, dupLogSeq := m.seq }
        events := s.events ++ [(s.events.length, .ackOut m.id m.seq), (s.events.length + 1, .dupLog m.seq)]
        out := some (.transport, .result (.ack ⟨m.id, m.seq⟩)) })

/-- A new message of a kind that only stores its data: Ping, FanSpeedUpdate, Ready, ForcedFanSpeedUpdate, PingV2, and by MSGIN every further kind below `KIND_COUNT`: the ack first, then the data stored and the update reported; nothing else (42_cm2dm.md R234, R235, R237, R240). The events' numbers are the model's choice (notes/assumptions/15.md). -/
def Obligations.StorageKinds : Prop :=
  ∀ (s : State) (id seq : Byte) (data : Word) (t : State), s.cfg.wf = true → isNew s seq →
    t = { s with
          rx := { s.rx with lastSeqValid := true, lastSeq := seq, dupLogValid := false, value := vset s.rx.value id.toNat data }
          events := s.events ++ [(s.events.length, .ackOut id seq), (s.events.length + 1, .kindUpdate id data)]
          out := some (.transport, .result (.ack ⟨id, seq⟩)) } →
    (id = s.cfg.kindId.ping → exec (.ping seq data) s = .next t)
    ∧ (id = s.cfg.kindId.fanSpeedUpdate → exec (.fanSpeedUpdate seq data) s = .next t)
    ∧ (id = s.cfg.kindId.ready → exec (.ready seq data) s = .next t)
    ∧ (id = s.cfg.kindId.forcedFanSpeedUpdate → exec (.forcedFanSpeedUpdate seq data) s = .next t)
    ∧ (id = s.cfg.kindId.pingV2 → exec (.pingV2 seq data) s = .next t)
    ∧ (id ∉ [0, s.cfg.kindId.resetReq, s.cfg.kindId.autoResetTimeoutUpdate, s.cfg.kindId.heartbeatUpdate] → id.toNat < s.cfg.kindCount →
        exec (.msgin .transport ⟨id, seq, data⟩) s = .next t)

/-- A new ResetReq: beside the ack and the data storage, the reset path starts with the message's data as its argument, unless a reset is on its way or done (42_cm2dm.md R236). The events' numbers are the model's choice (notes/assumptions/15.md). -/
def Obligations.ResetReqMeaning : Prop :=
  ∀ (seq : Byte) (data : Word) (s : State), s.cfg.wf = true → isNew s seq →
    exec (.resetReq seq data) s = .next
      { s with
        rx := { s.rx with lastSeqValid := true, lastSeq := seq, dupLogValid := false, value := vset s.rx.value s.cfg.kindId.resetReq.toNat data }
        tmr := if s.tmr.rstPending = false ∧ s.tmr.rstOut = false then
            { s.tmr with rstPending := true, rstRemaining := s.cfg.resetDelayTicks, rstArg := data }
          else s.tmr
        events := s.events ++ [(s.events.length, .ackOut s.cfg.kindId.resetReq seq), (s.events.length + 1, .kindUpdate s.cfg.kindId.resetReq data)]
        out := some (.transport, .result (.ack ⟨s.cfg.kindId.resetReq, seq⟩)) }

/-- A new AutoResetTimeoutUpdate: beside the ack and the data storage, 0 disarms the watchdog and any other value arms it for that many ticks (42_cm2dm.md R238). The events' numbers are the model's choice (notes/assumptions/15.md). -/
def Obligations.AutoResetTimeoutMeaning : Prop :=
  ∀ (seq : Byte) (data : Word) (s : State), s.cfg.wf = true → isNew s seq →
    exec (.autoResetTimeoutUpdate seq data) s = .next
      { s with
        rx := { s.rx with lastSeqValid := true, lastSeq := seq, dupLogValid := false, value := vset s.rx.value s.cfg.kindId.autoResetTimeoutUpdate.toNat data }
        tmr := { s.tmr with wdArmed := decide (data ≠ 0), wdTimeout := data, wdRemaining := data }
        events := s.events ++ [(s.events.length, .ackOut s.cfg.kindId.autoResetTimeoutUpdate seq),
          (s.events.length + 1, .kindUpdate s.cfg.kindId.autoResetTimeoutUpdate data)]
        out := some (.transport, .result (.ack ⟨s.cfg.kindId.autoResetTimeoutUpdate, seq⟩)) }

/-- A new HeartbeatUpdate: beside the ack and the data storage, a first or changed value is remembered and reloads an armed watchdog; an unchanged one does nothing further, and a disarmed watchdog is never armed (42_cm2dm.md R239). The events' numbers are the model's choice (notes/assumptions/15.md). -/
def Obligations.HeartbeatMeaning : Prop :=
  ∀ (seq : Byte) (data : Word) (s : State), s.cfg.wf = true → isNew s seq →
    exec (.heartbeatUpdate seq data) s = .next
      { s with
        rx := { s.rx with
          lastSeqValid := true, lastSeq := seq, dupLogValid := false, value := vset s.rx.value s.cfg.kindId.heartbeatUpdate.toNat data
          hbValid := true
          lastHb := data }
        tmr := { s.tmr with
          wdRemaining := if s.tmr.wdArmed = true ∧ (s.rx.hbValid = false ∨ data ≠ s.rx.lastHb) then s.tmr.wdTimeout else s.tmr.wdRemaining }
        events := s.events ++ [(s.events.length, .ackOut s.cfg.kindId.heartbeatUpdate seq), (s.events.length + 1, .kindUpdate s.cfg.kindId.heartbeatUpdate data)]
        out := some (.transport, .result (.ack ⟨s.cfg.kindId.heartbeatUpdate, seq⟩)) }

/-- MSGIN of a record is the meaning of the kind the record names, new or duplicate (30_encoding.md R127; 42_cm2dm.md R230, R235). -/
def Obligations.MsginRunsKind : Prop :=
  ∀ (m : Record) (i : Instr) (s : State), decodeKind s.cfg.kindId m = .ok i → exec (.msgin .transport m) s = exec i s

/-- Delivering the same message twice: acknowledged both times, and the second delivery changes only the duplicate log and the events: no kind effect (42_cm2dm.md R242). The events' numbers are the model's choice (notes/assumptions/15.md). -/
def Obligations.DeliveredTwice : Prop :=
  ∀ (m : Record) (s t : State), m.id ≠ 0 → exec (.msgin .transport m) s = .next t →
    t.out = some (.transport, .result (.ack ⟨m.id, m.seq⟩))
    ∧ ∃ u, exec (.msgin .transport m) t = .next u
      ∧ u = { t with
          rx := { t.rx with dupLogValid := true, dupLogSeq := m.seq }
          events := t.events ++ ((t.events.length, .ackOut m.id m.seq) ::
            if t.rx.dupLogValid = true ∧ t.rx.dupLogSeq = m.seq then [] else [(t.events.length + 1, .dupLog m.seq)])
          out := some (.transport, .result (.ack ⟨m.id, m.seq⟩)) }

/-- Two instances: the record instance A exposes, delivered to B's MSGIN, whatever B's state, brings back an ack that retires A's in-flight record (42_cm2dm.md R214, R216, R230, R234; 60_exceptions.md R355). The model is one instance; this statement takes two (notes/assumptions/19.md). -/
def Obligations.HandshakeRetires : Prop :=
  ∀ (sA sB : State), sA.tx.inflight.valid = true → sA.tx.inflight.kind ≠ 0 →
    ∃ (m : Record) (tA tB uA : State) (k : Ack), exec (.readmsg .transport) sA = .next tA ∧ tA.out = some (.transport, .result (.record m))
      ∧ exec (.msgin .transport m) sB = .next tB ∧ tB.out = some (.transport, .result (.ack k))
      ∧ exec (.ackin .transport k) tA = .next uA ∧ uA.tx.inflight.valid = false

/-! ## Timers, ping check, init gate -/

/-- TICK, all of it: reset delay, watchdog and ping timeout, each counting down by one and taking its effect at 0; a watchdog's expiry starts the reset path only where no reset was on its way when the TICK began; refused for an agent other than TIMEBASE (42_cm2dm.md R250 to R253). The events' numbers and `pingHasResult` are the model's (notes/assumptions/7.md, 15.md). -/
def Obligations.TickMeaning : Prop :=
  ∀ (a : Agent) (s : State),
    (a ≠ .timebase → exec (.tick a) s = .next { s with refused := true, out := some (a, .refusal) })
    ∧ ∀ rstEnds wdEnds pingEnds fires : Bool,
        rstEnds = (s.tmr.rstPending && decide (s.tmr.rstRemaining = 1)) →
        wdEnds = (s.tmr.wdArmed && decide (s.tmr.wdRemaining = 1)) →
        pingEnds = (s.tmr.pingWait && decide (s.tmr.pingRemaining = 1)) →
        fires = (wdEnds && !s.tmr.rstPending && !s.tmr.rstOut) →
        a = .timebase → exec (.tick a) s = .next
          { s with
            tmr := {
              wdArmed := s.tmr.wdArmed && !wdEnds
              wdTimeout := s.tmr.wdTimeout
              wdRemaining := if s.tmr.wdArmed then s.tmr.wdRemaining - 1 else s.tmr.wdRemaining
              rstPending := (s.tmr.rstPending && !rstEnds) || fires
              rstRemaining := if s.tmr.rstPending then s.tmr.rstRemaining - 1 else if fires then s.cfg.resetDelayTicks else s.tmr.rstRemaining
              rstArg := if fires then s.cfg.wdResetArg else s.tmr.rstArg
              rstOut := s.tmr.rstOut || rstEnds
              sem := s.tmr.sem
              pingWait := s.tmr.pingWait && !pingEnds
              pingRemaining := if s.tmr.pingWait then s.tmr.pingRemaining - 1 else s.tmr.pingRemaining
              pingResult := if pingEnds then .timeout else s.tmr.pingResult
              pingHasResult := s.tmr.pingHasResult || pingEnds }
            events := s.events ++ (if rstEnds then [(s.events.length, .resetOut s.tmr.rstArg)] else [])
            out := some (a, .result .ok) }

/-- The watchdog: armed with N ticks left and no reset on its way, it stays armed for N - 1 TICKs, expires at the N-th and starts the reset path; after `RESET_DELAY_TICKS` more, the reset output is 1 and `ResetOut` is among the events (42_cm2dm.md R251, R252). -/
def Obligations.WatchdogExpires : Prop :=
  ∀ (s : State) (n d : Nat), s.tmr.wdArmed = true → s.tmr.wdRemaining.toNat = n → 1 ≤ n →
    s.cfg.resetDelayTicks.toNat = d → 1 ≤ d → s.tmr.rstPending = false → s.tmr.rstOut = false →
    (∀ j, j < n → ∃ t, afterTicks j s = some t ∧ t.tmr.wdArmed = true ∧ t.tmr.wdRemaining.toNat = n - j ∧ t.tmr.rstPending = false)
    ∧ (∃ t, afterTicks n s = some t ∧ t.tmr.wdArmed = false ∧ t.tmr.rstPending = true ∧ t.tmr.rstRemaining = s.cfg.resetDelayTicks
        ∧ t.tmr.rstArg = s.cfg.wdResetArg ∧ t.tmr.rstOut = false)
    ∧ ∃ t k, afterTicks (n + d) s = some t ∧ t.tmr.rstOut = true ∧ t.tmr.rstPending = false ∧ (k, .resetOut s.cfg.wdResetArg) ∈ t.events

/-- Ping termination. A PINGCHK returns ALIVE at once, or after `PING_TIMEOUT_TICKS` TICKs with nothing between them it waits no longer and its result is TIMEOUT; the same for the check of `H_PINGDM`, in whichever command it is registered for. And whatever the agents do, a check that waits with `ping_remaining` at N ends by the N-th TICK at the latest: in every run of steps from there with at least N TICKs of TIMEBASE, there is a moment, after at most N of them, at which `ping_wait` is 0 (42_cm2dm.md R253, R260, R261; 41_dispatch.md R190). How steps are taken and LOOP's place are the model's (notes/assumptions/1.md, 12.md). -/
def Obligations.PingTerminates : Prop :=
  (∀ s t : State, 1 ≤ s.cfg.pingTimeoutTicks.toNat → exec (.pingchk .loop) s = .next t →
    t.out = some (.loop, .result .alive)
      ∨ ∃ u, afterTicks s.cfg.pingTimeoutTicks.toNat t = some u ∧ u.tmr.pingWait = false ∧ u.tmr.pingResult = .timeout)
  ∧ (∀ (c : Fin 4) (code : Byte) (p : Payload) (i : Instr) (s t : State), 1 ≤ s.cfg.pingTimeoutTicks.toNat →
    decodeCommand c code p = .ok i → vget s.disp.table code.toNat none = some .pingDM → exec i s = .next t →
    (s.tmr.sem ≠ 0 ∧ t.loop = afterDstep c)
      ∨ ∃ u, afterTicks s.cfg.pingTimeoutTicks.toNat t = some u ∧ u.loop = .heldDispatch c
          ∧ u.tmr.pingWait = false ∧ u.tmr.pingResult = .timeout)
  ∧ ∀ (s t : State) (n k : Nat), held s = true → 1 ≤ s.tmr.pingRemaining.toNat → runSteps n s = some (k, t) →
    s.tmr.pingRemaining.toNat ≤ k →
    ∃ (m j : Nat) (u : State), m ≤ n ∧ runSteps m s = some (j, u) ∧ j ≤ s.tmr.pingRemaining.toNat ∧ u.tmr.pingWait = false

/-- PINGCHK, all of it: refused for another agent; with the semaphore above 0, ALIVE at once; with it at 0, LOOP holds; and when the hold is lifted LOOP's next step returns the result (42_cm2dm.md R260). LOOP's place in the hold is the model's field (notes/assumptions/12.md). -/
def Obligations.PingchkMeaning : Prop :=
  (∀ (a : Agent) (s : State),
    (a ≠ .loop → exec (.pingchk a) s = .next { s with refused := true, out := some (a, .refusal) })
    ∧ (a = .loop → s.tmr.sem ≠ 0 →
        exec (.pingchk a) s = .next { s with tmr := { s.tmr with sem := s.tmr.sem - 1 }, out := some (a, .result .alive) })
    ∧ (a = .loop → s.tmr.sem = 0 → exec (.pingchk a) s = .next
        { s with
          tmr := { s.tmr with pingWait := true, pingRemaining := s.cfg.pingTimeoutTicks }
          loop := .heldCheck
          out := some (a, .hold) }))
  ∧ ∀ s u : State, takeInput s = .loopGoes u → u.loop = .heldCheck → u.tmr.pingWait = false ∧
      step s = .next { u with loop := .idle, out := some (.loop, .result (if u.tmr.pingResult = .alive then .alive else .timeout)) }

/-- LOOP is one sequential agent: while it holds it takes no step, and while it is busy at all no operation of its own is taken. The other agents go on whatever LOOP's place: their operation, or a RESET, at the head of the inbox is the next transaction, between two DSTEPs of an open pass too, and it leaves LOOP's place as it is. LOOP goes on with an open pass or a lifted hold at its turn, before an operation of its own, or with no input left; and while it holds, the operations behind one of its own go first (70_reset_and_hazards.md R390; 20_memory.md R93, R94; 41_dispatch.md R185). The inbox, LOOP's turn in it and LOOP's place are the model's (notes/assumptions/1.md, 12.md, 13.md). -/
def Obligations.BusyLoopTakesNoOperation : Prop :=
  ∀ s : State,
    (held s = true → ∀ u, takeInput s ≠ .loopGoes u)
    ∧ (s.loop ≠ .idle → ∀ a bytes u, takeInput s = .port a bytes u → a ≠ .loop)
    ∧ (∀ a bytes rest, a ≠ .loop → s.inbox = .port a bytes :: rest → takeInput s = .port a bytes { s with inbox := rest }
        ∧ ∀ t, step s = .next t → t.loop = s.loop ∧ t.inbox = rest)
    ∧ (∀ rest, s.inbox = .reset :: rest → takeInput s = .reset { s with inbox := rest })
    ∧ (s.loop ≠ .idle → held s = false →
        (s.inbox = [] → takeInput s = .loopGoes s)
        ∧ (∀ rest, s.inbox = .turn :: rest → takeInput s = .loopGoes { s with inbox := rest })
        ∧ ∀ bytes rest, s.inbox = .port .loop bytes :: rest → takeInput s = .loopGoes s)
    ∧ ∀ own a bytes rest, held s = true → a ≠ .loop → s.inbox = .port .loop own :: .port a bytes :: rest →
        takeInput s = .port a bytes { s with inbox := .port .loop own :: rest }

/-- INITTICK, all of it: refused for another agent; with the gate down, OK and no step called; with it up, the steps in order 0, 1, 2, each reported, up to the first that fails; the gate goes down when all three succeeded (42_cm2dm.md R265, R266). The events' numbers are the model's choice (notes/assumptions/15.md). -/
def Obligations.InittickMeaning : Prop :=
  ∀ (a : Agent) (s : State),
    (a ≠ .loop → exec (.inittick a) s = .next { s with refused := true, out := some (a, .refusal) })
    ∧ (a = .loop → s.gate.needsInit = false → exec (.inittick a) s = .next { s with out := some (a, .result .ok) })
    ∧ ∀ (ok0 ok1 ok2 : Bool) (g0 g1 g2 : Nat), (ok0, g0) = Config.initStep 0 s.ext → (ok1, g1) = Config.initStep 1 g0 → (ok2, g2) = Config.initStep 2 g1 →
        a = .loop → s.gate.needsInit = true →
        (ok0 = false → exec (.inittick a) s = .next
          { s with ext := g0, events := s.events ++ [(s.events.length, .initStep 0 false)], out := some (a, .result .ok) })
        ∧ (ok0 = true → ok1 = false → exec (.inittick a) s = .next
          { s with ext := g1, events := s.events ++ [(s.events.length, .initStep 0 true), (s.events.length + 1, .initStep 1 false)], out := some (a, .result .ok) })
        ∧ (ok0 = true → ok1 = true → exec (.inittick a) s = .next
          { s with
            ext := g2
            gate := ⟨!ok2⟩
            events := s.events ++ [(s.events.length, .initStep 0 true), (s.events.length + 1, .initStep 1 true), (s.events.length + 2, .initStep 2 ok2)]
            out := some (a, .result .ok) })

/-! ## NOC engine -/

/-- SETHARV, all of it: refused for another agent, and once the harvest registers hold a value; else they take the operands and the PCIe override is off (43_noc.md R273, R274). -/
def Obligations.SetharvMeaning : Prop :=
  ∀ (a : Agent) (tb : Half) (g : Byte) (se eb : Half) (pe : Byte) (s : State),
    (a ≠ .loop → exec (.setharv a tb g se eb pe) s = .next { s with refused := true, out := some (a, .refusal) })
    ∧ (a = .loop → s.noc.harvValid = true → exec (.setharv a tb g se eb pe) s = .next { s with refused := true, out := some (a, .refusal) })
    ∧ (a = .loop → s.noc.harvValid = false → exec (.setharv a tb g se eb pe) s = .next
        { s with noc := { s.noc with harvValid := true, harv := ⟨tb, g, se, eb, pe, false, false⟩ }, out := some (a, .result .ok) })

/-- COMPUTE with its precondition met: ring 0 gets the computed table of the harvest registers and the parameters alone, ring 1 its mirror, and nothing else is written; refused for another agent and before the harvest registers hold a value (43_noc.md R275, R296). -/
def Obligations.ComputeMeaning : Prop :=
  ∀ (a : Agent) (s : State),
    (a ≠ .loop → exec (.compute a) s = .next { s with refused := true, out := some (a, .refusal) })
    ∧ (a = .loop → s.noc.harvValid = false → exec (.compute a) s = .next { s with refused := true, out := some (a, .refusal) })
    ∧ (a = .loop → s.noc.harvValid = true → s.noc.harv.tensixBad.extractLsb' 0 14 ≠ 0x3FFF →
        s.noc.harv.gddrBad = s.cfg.gddrNone ∨ s.noc.harv.gddrBad.toNat < s.cfg.geo.nGddr → exec (.compute a) s = .next
          { s with
            noc := { s.noc with
              ring0 := computedTable s.cfg.geo s.cfg.fixedNodes s.noc.harv
              ring1 := mirror (computedTable s.cfg.geo s.cfg.fixedNodes s.noc.harv) }
            out := some (a, .result .ok) })

/-- COMPUTE with its precondition broken completes all the same: each violated class is recorded, the violation flag is set, and only that class's entries are a draw: every other entry of both rings is as computed (43_noc.md R287). The drawn entries are free values (notes/assumptions/11.md). -/
def Obligations.ComputeViolated : Prop :=
  ∀ (s : State) (tx gd : Prop), s.cfg.wf = true → s.noc.harvValid = true → (tx ↔ s.noc.harv.tensixBad.extractLsb' 0 14 = 0x3FFF) →
    (gd ↔ s.noc.harv.gddrBad ≠ s.cfg.gddrNone ∧ s.cfg.geo.nGddr ≤ s.noc.harv.gddrBad.toNat) → (tx ∨ gd) →
    ∃ t, exec (.compute .loop) s = .next t
      ∧ t.noc.precondViolated = true ∧ t.noc.harv = s.noc.harv ∧ t.noc.harvValid = true
      ∧ (∀ f, f ∈ t.fault ↔ (tx ∧ f = ⟨.precond, 0x41, 0⟩) ∨ (gd ∧ f = ⟨.precond, 0x41, 1⟩) ∨ f ∈ s.fault)
      ∧ t = { s with noc := t.noc, fault := t.fault, draws := t.draws, out := some (.loop, .result .ok) }
      ∧ (∀ r T : Table, (r, T) ∈ [(t.noc.ring0, computedTable s.cfg.geo s.cfg.fixedNodes s.noc.harv),
                                 (t.noc.ring1, mirror (computedTable s.cfg.geo s.cfg.fixedNodes s.noc.harv))] →
          r.enable = T.enable ∧ r.colMask = T.colMask ∧ r.rowMask = T.rowMask
          ∧ (∀ i, (tx → i ∉ tensixCols) → (gd → i ≠ s.cfg.geo.dramPreXW ∧ i ≠ s.cfg.geo.dramPreXE) → r.xAt i = T.xAt i)
          ∧ (∀ i, (gd → i ∉ s.cfg.geo.dramPreYs) → r.yAt i = T.yAt i))
      ∧ ∀ x y, x < 17 → y < 12 → (tx → ¬(x ∈ tensixCols ∧ y ∈ s.cfg.geo.tensixRows)) →
          (gd → ¬((x = s.cfg.geo.gddrColW ∨ x = s.cfg.geo.gddrColE) ∧ y < s.cfg.geo.gddrPerCol * s.cfg.geo.gddrRowsPer)) →
          t.noc.ring0.logicalAt x y = (computedTable s.cfg.geo s.cfg.fixedNodes s.noc.harv).logicalAt x y
          ∧ t.noc.ring1.logicalAt (16 - x) (11 - y) = (mirror (computedTable s.cfg.geo s.cfg.fixedNodes s.noc.harv)).logicalAt (16 - x) (11 - y)

/-- PROGRAM emits 410 events and writes nothing else: for each ring, one record per node, x ascending and y ascending within each x, named by its physical coordinate and carrying the ring's table and the node's own logical entry, the ARC node's enable left alone; and last of each ring the ARC node's enable (43_noc.md R288, R289). The events' numbers are the model's choice (notes/assumptions/15.md). -/
def Obligations.ProgramMeaning : Prop :=
  ∀ (a : Agent) (s : State),
    (a ≠ .loop → exec (.program a) s = .next { s with refused := true, out := some (a, .refusal) })
    ∧ (a = .loop → ∃ t, exec (.program a) s = .next t ∧ t = { s with events := t.events, out := some (a, .result .ok) }
        ∧ t.events.length = s.events.length + 410 ∧ s.events <+: t.events
        ∧ ∀ (r : Nat) (T : Table), (r, T) ∈ [(0, s.noc.ring0), (1, s.noc.ring1)] →
            t.events[s.events.length + 205 * r + 204]?
              = some (s.events.length + 205 * r + 204, .nodeEnable r s.cfg.geo.arc.1 s.cfg.geo.arc.2 T.enable)
            ∧ ∀ x y, x < 17 → y < 12 →
                t.events[s.events.length + 205 * r + 12 * x + y]? = some (s.events.length + 205 * r + 12 * x + y,
                  .nodeWrite r x y
                    ⟨T.xTable, T.yTable, T.colMask, T.rowMask,
                      if r = 0 then T.logicalAt x y else T.logicalAt (16 - x) (11 - y),
                      if (x, y) = s.cfg.geo.arc then none else some T.enable⟩))

/-- CLEAR: translation off, the identity in both axes and in the logical table, the masks that do not depend on harvesting, ring 1 the mirror; the harvest registers and the violation flag stay; refused for another agent (43_noc.md R290, R276). -/
def Obligations.ClearMeaning : Prop :=
  ∀ (a : Agent) (s : State),
    (a ≠ .loop → exec (.clear a) s = .next { s with refused := true, out := some (a, .refusal) })
    ∧ (a = .loop → ∃ t, exec (.clear a) s = .next t
        ∧ t = { s with noc := { s.noc with ring0 := t.noc.ring0, ring1 := mirror t.noc.ring0 }, out := some (a, .result .ok) }
        ∧ t.noc.ring0.enable = false
        ∧ (∀ i, i < 32 → t.noc.ring0.xAt i = i ∧ t.noc.ring0.yAt i = i)
        ∧ (∀ x y, x < 17 → y < 12 → t.noc.ring0.logicalAt x y = packCoord x y)
        ∧ t.noc.ring0.colMask = 1#32 <<< s.cfg.geo.gddrColW ||| 1#32 <<< s.cfg.geo.gddrColE ||| 1#32 <<< s.cfg.geo.mgmtCol
        ∧ t.noc.ring0.rowMask = 1#32 <<< s.cfg.geo.ethRow ||| 1#32 <<< s.cfg.geo.pcieRow)

/-- COMPUTE's tables, class by class, and that the classes do not alias, on ring 0 and by reflection on ring 1. Translation is on (43_noc.md R275). The compute slots hold the good columns ascending and then the bad ones descending, a permutation of the columns; compute rows are fixed (R277). The half with the bad DRAM channel becomes east, and its rows come last (R279, R280); the DRAM columns and rows are permuted. The Ethernet slots take the lanes that are not skipped, in physical order, injectively; the rest keep the identity (R282). PCIe's index names the chosen instance (R281), each fixed node's its node (R284), and every other index itself (R276). For every geometry the spec admits and fixed nodes whose pre columns and rows are used once: by no box, not by PCIe, and by no other fixed node (R292; narrower than R284 asks, see FixedNodesApart). -/
def Obligations.ClassesDoNotAlias : Prop :=
  ∀ (p : Params) (h : Harvest) (T : Table), p.wf = true → FixedNodesApart p.geo p.fixedNodes → violatedClasses p h = [] →
    T = computedTable p.geo p.fixedNodes h →
    T.enable = true
    ∧ (tensixCols.map T.xAt
        = ((List.range 14).filter (fun i => !h.tensixBad.getLsbD i)).map (fun i => tensixCols.getD i 0)
          ++ ((List.range 14).reverse.filter (fun i => h.tensixBad.getLsbD i)).map (fun i => tensixCols.getD i 0))
    ∧ (tensixCols.map T.xAt).Perm tensixCols
    ∧ (∀ y ∈ p.geo.tensixRows, T.yAt y = y)
    ∧ (if h.gddrBad.toNat < p.geo.nGddr ∧ h.gddrBad.toNat / p.geo.gddrPerCol = 0
        then T.xAt p.geo.dramPreXW = p.geo.gddrColE ∧ T.xAt p.geo.dramPreXE = p.geo.gddrColW
        else T.xAt p.geo.dramPreXW = p.geo.gddrColW ∧ T.xAt p.geo.dramPreXE = p.geo.gddrColE)
    ∧ ([p.geo.dramPreXW, p.geo.dramPreXE].map T.xAt).Perm [p.geo.gddrColW, p.geo.gddrColE]
    ∧ (∀ k r b, k < p.geo.gddrPerCol → r < p.geo.gddrRowsPer → b = h.gddrBad.toNat % p.geo.gddrPerCol →
        T.yAt (p.geo.dramPreY0 + k * p.geo.gddrRowsPer + r)
          = (if p.geo.nGddr ≤ h.gddrBad.toNat then k else if k + 1 = p.geo.gddrPerCol then b else if k < b then k else k + 1) * p.geo.gddrRowsPer + r)
    ∧ (p.geo.dramPreYs.map T.yAt).Perm (List.range (p.geo.gddrPerCol * p.geo.gddrRowsPer))
    ∧ (∀ lanes n, lanes = (List.range p.geo.ethX.length).filter (fun l => !h.skipEth.getLsbD l) → n = min lanes.length p.geo.ethSlots →
        (List.range' p.geo.ethPreX0 n).map T.xAt = (lanes.take n).map (fun l => p.geo.ethX.getD l 0)
        ∧ (∀ j, n ≤ j → j < p.geo.ethSlots → T.xAt (p.geo.ethPreX0 + j) = p.geo.ethPreX0 + j)
        ∧ (p.geo.ethX.Nodup → ((List.range' p.geo.ethPreX0 n).map T.xAt).Nodup) ∧ ∀ x ∈ (List.range' p.geo.ethPreX0 n).map T.xAt, x ∈ p.geo.ethX)
    ∧ T.yAt p.geo.ethPreY = p.geo.ethRow
    ∧ (∀ node : Nat × Nat,
        node = (if h.pcieOverride then (if h.pcieSel then p.geo.pciePhys1 else p.geo.pciePhys0)
                else if !h.pcieEn.getLsbD 0 && h.pcieEn.getLsbD 1 then p.geo.pciePhys1 else p.geo.pciePhys0) →
        T.translate p.geo.pciePreX p.geo.pciePreY = node)
    ∧ (∀ n ∈ p.fixedNodes, T.translate n.preX n.preY = (n.physX, n.physY))
    ∧ (∀ i, i < 32 → i ∉ p.geo.preXs ++ p.fixedNodes.map FixedNode.preX → T.xAt i = i)
    ∧ (∀ i, i < 32 → i ∉ p.geo.preYs ++ p.fixedNodes.map FixedNode.preY → T.yAt i = i)
    ∧ (∀ i, i < 32 → T.xAt i < 17 → (mirror T).xAt i = 16 - T.xAt i) ∧ (∀ i, i < 32 → T.yAt i < 12 → (mirror T).yAt i = 11 - T.yAt i)

/-- The logical table. At every node whose entry the engine sets, that entry translates back to the node, on ring 0 and, with ring 1's tables and reflected node, on ring 1 (43_noc.md R293). What the entries are: a node keeps the identity where neither a box, nor PCIe, nor a fixed node sets it; the last fixed node of a node names its own pre coordinate, PCIe's node PCIe's where no fixed node is there, and a box's node the one pre coordinate that reaches it (R276, R281, R283, R284). For fixed nodes whose pre columns and rows are used once: fixed nodes that share one, even where they agree, are left out (narrower than R284 asks, see FixedNodesApart). -/
def Obligations.LogicalRoundTrip : Prop :=
  ∀ (p : Params) (h : Harvest) (x y : Nat) (T : Table), p.wf = true → FixedNodesApart p.geo p.fixedNodes → violatedClasses p h = [] →
    T = computedTable p.geo p.fixedNodes h →
    (SetByEngine p.geo p.fixedNodes h x y → RoundTrips T x y ∧ RoundTrips (mirror T) (16 - x) (11 - y))
    ∧ (x < 17 → y < 12 → ¬SetByEngine p.geo p.fixedNodes h x y → T.logicalAt x y = packCoord x y)
    ∧ (∀ l n r, p.fixedNodes = l ++ n :: r → (n.physX, n.physY) = (x, y) → (∀ m ∈ r, (m.physX, m.physY) ≠ (x, y)) →
        T.logicalAt x y = packCoord n.preX n.preY)
    ∧ ((∀ n ∈ p.fixedNodes, (n.physX, n.physY) ≠ (x, y)) →
        ((x, y) = pciePhys p.geo (pcieInstance h) → T.logicalAt x y = packCoord p.geo.pciePreX p.geo.pciePreY)
        ∧ ((x, y) ≠ pciePhys p.geo (pcieInstance h) →
          ∀ b ∈ sweepBoxes p.geo, ∀ px ∈ b.preX, ∀ py ∈ b.preY, x ∈ b.targetX → y ∈ b.targetY → T.translate px py = (x, y) →
            (∀ b' ∈ sweepBoxes p.geo, ∀ px' ∈ b'.preX, ∀ py' ∈ b'.preY, x ∈ b'.targetX → y ∈ b'.targetY →
              T.translate px' py' = (x, y) → px' = px ∧ py' = py) →
            T.logicalAt x y = packCoord px py))

/-- The mirror: every physical value, mask bit and logical index of ring 1 is the point reflection of ring 0's; twice is the identity on tables whose masks are inside the grid; and after COMPUTE with its precondition met or after CLEAR, ring 1 is the mirror of ring 0 (43_noc.md R286, R294). -/
def Obligations.MirrorLaw : Prop :=
  (∀ t : Table,
    (mirror t).enable = t.enable
    ∧ (∀ i, i < 32 → (mirror t).xAt i = (if t.xAt i < 17 then 16 - t.xAt i else t.xAt i)
        ∧ (mirror t).yAt i = if t.yAt i < 12 then 11 - t.yAt i else t.yAt i)
    ∧ (∀ x y, x < 17 → y < 12 → (mirror t).logicalAt (16 - x) (11 - y) = t.logicalAt x y)
    ∧ (∀ x, (mirror t).colMask.getLsbD x = (decide (x < 17) && t.colMask.getLsbD (16 - x)))
    ∧ (∀ y, (mirror t).rowMask.getLsbD y = (decide (y < 12) && t.rowMask.getLsbD (11 - y)))
    ∧ (t.colMask.toNat < 2 ^ 17 → t.rowMask.toNat < 2 ^ 12 → mirror (mirror t) = t))
  ∧ ∀ s t : State,
      (exec (.clear .loop) s = .next t → t.noc.ring1 = mirror t.noc.ring0)
      ∧ (s.noc.harvValid = true → violatedClasses s.cfg s.noc.harv = [] → exec (.compute .loop) s = .next t → t.noc.ring1 = mirror t.noc.ring0)

/-- Broadcast exclusion: after COMPUTE exactly the DRAM columns, the management column and the harvested compute columns are excluded, and exactly the Ethernet and PCIe rows (43_noc.md R285). -/
def Obligations.BroadcastMasks : Prop :=
  ∀ (geo : Geometry) (nodes : List FixedNode) (h : Harvest), geo.wf = true →
    (∀ x, (computedTable geo nodes h).colMask.getLsbD x = true ↔
      x = geo.gddrColW ∨ x = geo.gddrColE ∨ x = geo.mgmtCol ∨ ∃ i, i < 14 ∧ h.tensixBad.getLsbD i = true ∧ tensixCols[i]? = some x)
    ∧ ∀ y, (computedTable geo nodes h).rowMask.getLsbD y = true ↔ y = geo.ethRow ∨ y = geo.pcieRow

/-! ## The whole machine -/

/-- An agent whose role does not allow an operation is refused, whatever the operation: `refused` is set and nothing else of the block is written (20_memory.md R97, R104; 60_exceptions.md R341). -/
def Obligations.WrongAgentRefused : Prop :=
  ∀ (i : Instr) (a : Agent) (s : State), sourceOf i = .port a → agentAllowed i = false →
    exec i s = .next { s with refused := true, out := some (a, .refusal) }

/-- A step runs the decoded instruction: a port operation that an agent offers, and a request that LOOP takes in an open pass. With LOOP idle the first operation offered is the one taken, and with nothing offered a step changes nothing. That the inputs stand in a list is the model's choice (notes/assumptions/1.md). -/
def Obligations.StepRunsDecoded : Prop :=
  (∀ (s u : State) (a : Agent) (bytes : List Byte) (i : Instr), takeInput s = .port a bytes u →
      decode u.cfg.kindId (.port a) bytes = .ok i → step s = exec i u)
  ∧ (∀ (s : State) (a : Agent) (bytes : List Byte) (rest : List Input), s.loop = .idle → s.inbox = .port a bytes :: rest →
      takeInput s = .port a bytes { s with inbox := rest })
  ∧ (∀ (s u : State) (c : Fin 4) (e : Entry) (i : Instr), takeInput s = .loopGoes u → u.loop = .pass c → u.disp.phase = .run →
      u.rmq[reqQueue c].wp ≠ u.rmq[reqQueue c].rp → u.headEntry (reqQueue c) = some e → decodeEntry c e = .ok i →
      step s = exec i (u.taken (reqQueue c)))
  ∧ ∀ s : State, s.loop = .idle → s.inbox = [] → step s = .next s

/-- Only RESET takes back a fault, a refusal, the reset output, the violation flag, the init gate, the harvest registers' validity, the phase RUN or a table fixed in RUN (10_state.md R48, R50, R53 to R55; 41_dispatch.md R194; 42_cm2dm.md R252, R266). A RESET is an input of the inbox (notes/assumptions/1.md). -/
def Obligations.LatchesHoldUntilReset : Prop :=
  ∀ s t : State, NoReset s → step s = .next t →
    (∀ f ∈ s.fault, f ∈ t.fault) ∧ (s.refused = true → t.refused = true) ∧ (s.tmr.rstOut = true → t.tmr.rstOut = true)
    ∧ (s.noc.precondViolated = true → t.noc.precondViolated = true) ∧ (s.gate.needsInit = false → t.gate.needsInit = false)
    ∧ (s.noc.harvValid = true → t.noc.harvValid = true)
    ∧ (s.disp.phase = .run → t.disp.phase = .run ∧ t.disp.table = s.disp.table)

/-- No step, RESET included, drops or rewrites an event, and none changes the parameters (10_state.md R56; 70_reset_and_hazards.md R370, R373). -/
def Obligations.EventsOnlyGrow : Prop :=
  ∀ s t : State, step s = .next t → s.events <+: t.events ∧ t.cfg = s.cfg

/-- RESET: every field takes the value that 70_reset_and_hazards.md R371 gives it, the tables the CLEAR state of 43_noc.md R290, and the event history stays (R370). That a hold or an open pass is abandoned, that the parameters stay, and that no check counts as ended are the model's reading or choice (notes/assumptions/20.md, DEDUCED; 7.md). -/
def Obligations.ResetMeaning : Prop :=
  ∀ s u : State, takeInput s = .reset u → ∃ t, step s = .next t
    ∧ (∀ q : Fin 8, t.rmq[q] = ⟨0, 0⟩ ∧ t.occ q = 0)
    ∧ (∀ k : Byte, vget t.disp.table k.toNat none = none) ∧ t.disp.phase = .init
    ∧ (∀ k, vget t.tx.pending k false = false) ∧ t.tx.inflight.valid = false ∧ t.tx.seq = 0 ∧ t.tx.nextIdRr = 0
    ∧ t.rx.lastSeqValid = false ∧ t.rx.dupLogValid = false ∧ t.rx.hbValid = false
    ∧ t.tmr.wdArmed = false ∧ t.tmr.wdTimeout = 0 ∧ t.tmr.wdRemaining = 0
    ∧ t.tmr.rstPending = false ∧ t.tmr.rstRemaining = 0 ∧ t.tmr.rstArg = 0 ∧ t.tmr.rstOut = false
    ∧ t.tmr.sem = 0 ∧ t.tmr.pingWait = false ∧ t.tmr.pingRemaining = 0
    ∧ t.gate.needsInit = true
    ∧ t.noc.harvValid = false ∧ t.noc.precondViolated = false
    ∧ t.tmr.pingHasResult = false
    ∧ t.noc.ring0.enable = false ∧ (∀ i, i < 32 → t.noc.ring0.xAt i = i ∧ t.noc.ring0.yAt i = i)
    ∧ (∀ x y, x < 17 → y < 12 → t.noc.ring0.logicalAt x y = packCoord x y)
    ∧ t.noc.ring0.colMask = 1#32 <<< u.cfg.geo.gddrColW ||| 1#32 <<< u.cfg.geo.gddrColE ||| 1#32 <<< u.cfg.geo.mgmtCol
    ∧ t.noc.ring0.rowMask = 1#32 <<< u.cfg.geo.ethRow ||| 1#32 <<< u.cfg.geo.pcieRow
    ∧ t.noc.ring1 = mirror t.noc.ring0
    ∧ t.fault = [] ∧ t.refused = false ∧ t.events = u.events ∧ t.loop = .idle ∧ t.cfg = u.cfg

/-- The invariant holds after power-on with any admitted parameters, and at the machine's reset state. The parameters of the reset state are the model's choice (notes/assumptions/4.md). -/
def Obligations.InvAtReset : Prop :=
  (∀ p : Params, p.wf = true → Inv (State.powerOn p)) ∧ Inv State.reset

/-- Every step keeps the invariant: pointers and occupancy in range, every occupied slot written, memory canonical, no pending Null, timers in range, the semaphore at most `SEM_MAX`, a check waiting only while LOOP holds, ring 1 the mirror of ring 0 unless a precondition was broken, a lifted hold with a result, and the histories well-formed (10_state.md R32, R35, R38, R42, R49, R54, R56; 43_noc.md R294). That the events are numbered 0, 1, 2 and so on is the model's choice (notes/assumptions/15.md). -/
def Obligations.InvKept : Prop :=
  ∀ s t : State, Inv s → step s = .next t → Inv t

/-- From a state of the invariant every step completes: no unwritten queue slot is read, which is all that stops the model (70_reset_and_hazards.md R372, its part on slots; notes/assumptions/6.md). The other fields with no value at reset hold one in the model and could stop nothing (notes/assumptions/7.md). -/
def Obligations.EveryStepCompletes : Prop :=
  ∀ s : State, Inv s → ∃ t, step s = .next t

end
end

