-- ==== Sys2Proof/Laws/Arrays.lean ====
section
/-! SUPPORT. Reading after writing the arrays. -/

namespace Sys2Proof.Machine

theorem vget_of_lt {α : Type} {n : Nat} (v : Vector α n) (k : Nat) (d : α) (h : k < n) : vget v k d = v[k] := by
  simp [vget, h]

theorem vget_of_ge {α : Type} {n : Nat} (v : Vector α n) (k : Nat) (d : α) (h : n ≤ k) : vget v k d = d := by
  simp [vget, h]

/-- What an element reads after a write: the value written if it is the one and it exists, else as before. -/
theorem vget_vset {α : Type} {n : Nat} (v : Vector α n) (k j : Nat) (x d : α) :
    vget (vset v k x) j d = if j = k ∧ k < n then x else vget v j d := by
  unfold vget vset
  rcases Nat.lt_or_ge j n with h | h
  · simp only [Vector.getElem?_eq_getElem h, Option.getD_some, Vector.getElem_setIfInBounds]
    by_cases hk : k = j
    · subst hk; simp [h]
    · have : j ≠ k := fun e => hk e.symm
      simp [hk, this]
  · rw [Vector.getElem?_eq_none h, Vector.getElem?_eq_none h]
    by_cases hk : j = k
    · subst hk; simp [Nat.not_lt.mpr h]
    · simp [hk]

theorem vget_vset_same {α : Type} {n : Nat} (v : Vector α n) (k : Nat) (x d : α) (h : k < n) : vget (vset v k x) k d = x := by
  simp [vget_vset, h]

theorem vget_vset_other {α : Type} {n : Nat} (v : Vector α n) (k j : Nat) (x d : α) (h : j ≠ k) :
    vget (vset v k x) j d = vget v j d := by
  simp [vget_vset, h]

theorem vset_vset {α : Type} {n : Nat} (v : Vector α n) (k : Nat) (x y : α) : vset (vset v k x) k y = vset v k y := by
  apply Vector.ext
  intro i hi
  simp only [vset, Vector.getElem_setIfInBounds]
  split <;> rfl

/-- What an element of a generated array reads. -/
theorem vget_vgen {α : Type} (n : Nat) (f : Nat → α) (j : Nat) (d : α) : vget (vgen n f) j d = if j < n then f j else d := by
  unfold vget
  rcases Nat.lt_or_ge j n with h | h
  · rw [Vector.getElem?_eq_getElem h]
    simp [vgen, h]
  · rw [Vector.getElem?_eq_none h]
    simp [Nat.not_lt.mpr h]

theorem vget_replicate {α : Type} (n j : Nat) (x d : α) : vget (Vector.replicate n x) j d = if j < n then x else d := by
  unfold vget
  rcases Nat.lt_or_ge j n with h | h
  · rw [Vector.getElem?_eq_getElem h]; simp [h]
  · rw [Vector.getElem?_eq_none h]; simp [Nat.not_lt.mpr h]

/-- Two arrays are equal when they read alike at every index. -/
theorem vector_ext_vget {α : Type} {n : Nat} {v w : Vector α n} (d : α) (h : ∀ k, k < n → vget v k d = vget w k d) : v = w := by
  apply Vector.ext
  intro i hi
  have := h i hi
  rwa [vget_of_lt v i d hi, vget_of_lt w i d hi] at this

end Sys2Proof.Machine
end

