-- ==== Sys2Proof/Laws/Bytes.lean ====
section
/-! SUPPORT. Byte order: words, entries and records go to bytes and come back. -/

namespace Sys2Proof.Machine

/-- A bit of the field of 8 bits at `k`. -/
theorem getLsbD_extract8 {n : Nat} (w : BitVec n) (k i : Nat) (h : i < 8) : (w.extractLsb' k 8).getLsbD i = w.getLsbD (k + i) := by
  rw [BitVec.getLsbD_extractLsb']
  simp [h]

theorem wordOf_extract (w : Word) :
    wordOf (w.extractLsb' 0 8) (w.extractLsb' 8 8) (w.extractLsb' 16 8) (w.extractLsb' 24 8) = w := by
  apply BitVec.eq_of_getLsbD_eq
  intro i hi
  simp only [wordOf, BitVec.getLsbD_append]
  (repeat' split) <;> rw [getLsbD_extract8 _ _ _ (by omega)] <;> congr 1 <;> omega

theorem wordBytes_wordOf (b0 b1 b2 b3 : Byte) : wordBytes (wordOf b0 b1 b2 b3) = [b0, b1, b2, b3] := by
  have h : ∀ (k : Nat) (b : Byte), (∀ i, i < 8 → (wordOf b0 b1 b2 b3).getLsbD (k + i) = b.getLsbD i) →
      (wordOf b0 b1 b2 b3).extractLsb' k 8 = b := by
    intro k b hb
    apply BitVec.eq_of_getLsbD_eq
    intro i hi
    rw [getLsbD_extract8 _ _ _ hi, hb i hi]
  unfold wordBytes
  rw [h 0 b0, h 8 b1, h 16 b2, h 24 b3] <;> intro i hi <;>
    simp only [wordOf, BitVec.getLsbD_append] <;> (repeat' split) <;> first | omega | (congr 1; omega)

theorem wordBytes_length (w : Word) : (wordBytes w).length = 4 := rfl

theorem halfOf_extract (h : Half) : halfOf (h.extractLsb' 0 8) (h.extractLsb' 8 8) = h := by
  apply BitVec.eq_of_getLsbD_eq
  intro i hi
  simp only [halfOf, BitVec.getLsbD_append]
  split <;> rw [getLsbD_extract8 _ _ _ (by omega)] <;> congr 1 <;> omega

theorem entryBytes_length (e : Entry) : (entryBytes e).length = 32 := rfl

/-- An entry written as bytes and read back is the same entry. -/
theorem entryOfBytes_entryBytes (e : Entry) : entryOfBytes (entryBytes e) = e := by
  cases e
  simp [entryOfBytes, entryBytes, wordBytes, wordAt, wordOf_extract]

/-- The request with the code and payload of an entry is that entry. -/
theorem requestEntry_code_payload (e : Entry) : requestEntry (requestCode e) (requestPayload e) = e := by
  cases e
  simp only [requestEntry, requestCode, requestPayload, entryByte, entryWord, Entry.mk.injEq, and_true]
  apply BitVec.eq_of_getLsbD_eq
  intro i hi
  simp only [BitVec.getLsbD_append]
  split
  · rw [getLsbD_extract8 _ _ _ (by omega)]; congr 1; omega
  · rw [BitVec.getLsbD_extractLsb', show (8 + (i - 8)) = i by omega]
    simp only [Bool.and_eq_right_iff_imp, decide_eq_true_eq]
    omega

theorem requestCode_requestEntry (code : Byte) (p : Payload) : requestCode (requestEntry code p) = code := by
  apply BitVec.eq_of_getLsbD_eq
  intro i hi
  change ((p.hi ++ code).extractLsb' 0 8).getLsbD i = code.getLsbD i
  rw [getLsbD_extract8 _ _ _ hi, BitVec.getLsbD_append, if_pos (by omega), Nat.zero_add]

theorem requestPayload_requestEntry (code : Byte) (p : Payload) : requestPayload (requestEntry code p) = p := by
  cases p
  simp only [requestPayload, requestEntry, Payload.mk.injEq, and_true]
  apply BitVec.eq_of_getLsbD_eq
  intro i hi
  rw [BitVec.getLsbD_extractLsb', BitVec.getLsbD_append, if_neg (by omega), show (8 + i - 8) = i by omega]
  simp [hi]

end Sys2Proof.Machine
end

