-- ==== Sys2Proof/Laws/Memory.lean ====
section
/-! SUPPORT. The memory: a read after a write, and the canonical form, which every memory operation keeps. -/

namespace Sys2Proof.Machine

/-- What a byte reads after one byte was written. -/
theorem memGet_memSet (m : Memory) (a b : Nat) (v : Byte) : memGet (memSet m a v) b = if b = a then some v else memGet m b := by
  induction m with
  | nil => rfl
  | cons c r ih =>
    obtain ⟨d, w⟩ := c
    unfold memSet
    split
    · rfl
    · split
      · rename_i _ h; subst h
        simp only [memGet]
        split <;> rfl
      · rename_i h1 h2
        simp only [memGet, ih]
        by_cases hb : b = d
        · subst hb
          have : b ≠ a := fun e => h2 e.symm
          simp [this]
        · simp [hb]

theorem mem_memSet_le (m : Memory) (a : Nat) (v : Byte) (c : Host.Cell) (h : c ∈ memSet m a v) : c = (a, v) ∨ c ∈ m := by
  induction m with
  | nil => simpa [memSet] using h
  | cons x r ih =>
    obtain ⟨d, w⟩ := x
    unfold memSet at h
    split at h
    · simpa using h
    · split at h
      · simp at h; rcases h with h | h
        · exact .inl h
        · exact .inr (by simp [h])
      · simp at h; rcases h with h | h
        · exact .inr (by simp [h])
        · rcases ih h with h | h
          · exact .inl h
          · exact .inr (by simp [h])

/-- Writing a byte keeps the canonical form. -/
theorem memSet_wf (m : Memory) (a : Nat) (v : Byte) (h : Memory.wf m = true) : Memory.wf (memSet m a v) = true := by
  simp only [Memory.wf, decide_eq_true_eq] at *
  induction m with
  | nil => simp [memSet]
  | cons x r ih =>
    obtain ⟨d, w⟩ := x
    rw [List.pairwise_cons] at h
    unfold memSet
    split
    · rename_i hlt
      rw [List.pairwise_cons, List.pairwise_cons]
      refine ⟨?_, h⟩
      intro c hc
      rcases List.mem_cons.mp hc with rfl | hc
      · exact hlt
      · exact Nat.lt_trans hlt (h.1 c hc)
    · split
      · rename_i _ he; subst he
        exact List.pairwise_cons.mpr ⟨h.1, h.2⟩
      · rename_i h1 h2
        rw [List.pairwise_cons]
        refine ⟨?_, ih h.2⟩
        intro c hc
        rcases mem_memSet_le r a v c hc with rfl | hc
        · exact Nat.lt_of_le_of_ne (Nat.le_of_not_lt h1) (Ne.symm h2)
        · exact h.1 c hc

/-- Writing bytes keeps the canonical form. -/
theorem writeBytes_wf (vs : List Byte) (m : Memory) (a : Nat) (h : Memory.wf m = true) : Memory.wf (writeBytes m a vs) = true := by
  induction vs generalizing m a with
  | nil => exact h
  | cons v vs ih => exact ih _ _ (memSet_wf m a v h)

/-- Writing an entry keeps the canonical form. -/
theorem memWrite_wf (m : Memory) (q : Fin 8) (i : Nat) (e : Entry) (h : Memory.wf m = true) : Memory.wf (memWrite m q i e) = true :=
  writeBytes_wf _ m _ h

/-- The memory after power-on has the canonical form. -/
theorem powerOn_mem_wf (p : Params) : Memory.wf (State.powerOn p).mem = true := rfl

/-- The memory after reset has the canonical form. -/
theorem reset_mem_wf : Memory.wf State.reset.mem = true := rfl

/-- What a byte reads after consecutive bytes were written. -/
theorem memGet_writeBytes (vs : List Byte) (m : Memory) (a b : Nat) :
    memGet (writeBytes m a vs) b = if h : a ≤ b ∧ b - a < vs.length then some (vs[b - a]'h.2) else memGet m b := by
  induction vs generalizing m a with
  | nil => simp [writeBytes]
  | cons v vs ih =>
    simp only [writeBytes, ih, memGet_memSet]
    by_cases h : b = a
    · subst h
      simp
    · by_cases h1 : a + 1 ≤ b
      · have e : b - a = (b - (a + 1)) + 1 := by omega
        by_cases h2 : b - (a + 1) < vs.length
        · have h3 : a ≤ b ∧ b - a < (v :: vs).length := by simp; omega
          rw [dif_pos ⟨h1, h2⟩, dif_pos h3]
          simp [e]
        · have h3 : ¬(a ≤ b ∧ b - a < (v :: vs).length) := by simp; omega
          rw [dif_neg (by omega), dif_neg h3, if_neg h]
      · have h3 : ¬(a ≤ b ∧ b - a < (v :: vs).length) := by omega
        rw [dif_neg (by omega), dif_neg h3, if_neg h]

/-- Reading consecutive bytes that are all there. -/
theorem readBytes_eq_some (vs : List Byte) (m : Memory) (a : Nat) (h : ∀ k (hk : k < vs.length), memGet m (a + k) = some vs[k]) :
    readBytes m a vs.length = some vs := by
  induction vs generalizing a with
  | nil => rfl
  | cons v vs ih =>
    have h0 := h 0 (by simp)
    have ht := ih (a + 1) (fun k hk => by
      have := h (k + 1) (by simp; omega)
      rw [show a + 1 + k = a + (k + 1) by omega]
      simpa using this)
    simp only [Nat.add_zero, List.getElem_cons_zero] at h0
    simp [readBytes, h0, ht]

/-- Reading consecutive bytes depends on those bytes only. -/
theorem readBytes_congr (m m' : Memory) (n a : Nat) (h : ∀ k, k < n → memGet m (a + k) = memGet m' (a + k)) :
    readBytes m a n = readBytes m' a n := by
  induction n generalizing a with
  | zero => rfl
  | succ n ih =>
    have h0 := h 0 (by omega)
    have ht := ih (a + 1) (fun k hk => by
      have := h (k + 1) (by omega)
      rwa [show a + 1 + k = a + (k + 1) by omega])
    rw [Nat.add_zero] at h0
    simp [readBytes, h0, ht]

/-- A slot reads as the entry last written to it. -/
theorem memRead_memWrite_same (m : Memory) (q : Fin 8) (i : Nat) (e : Entry) : memRead (memWrite m q i e) q i = some e := by
  have h := readBytes_eq_some (entryBytes e) (memWrite m q i e) (slotAddr q i) (fun k hk => by
    unfold memWrite
    rw [memGet_writeBytes, dif_pos (by constructor <;> omega)]
    simp)
  rw [entryBytes_length] at h
  simp [memRead, h, entryOfBytes_entryBytes]

/-- Two different slots share no byte. -/
theorem slotAddr_disjoint (q r : Fin 8) (i j : Nat) (h : (q, i) ≠ (r, j)) :
    slotAddr q i + 32 ≤ slotAddr r j ∨ slotAddr r j + 32 ≤ slotAddr q i := by
  unfold slotAddr
  have hq := q.isLt
  have hr := r.isLt
  have : q.val ≠ r.val ∨ i ≠ j := by
    by_contra hc
    have hqr : q.val = r.val := by omega
    exact h (by rw [Fin.ext hqr, show i = j by omega])
  omega

/-- Writing a slot leaves every other slot alone. -/
theorem memRead_memWrite_other (m : Memory) (q r : Fin 8) (i j : Nat) (e : Entry) (h : (q, i) ≠ (r, j)) :
    memRead (memWrite m q i e) r j = memRead m r j := by
  unfold memRead
  rw [readBytes_congr (memWrite m q i e) m 32 (slotAddr r j)]
  intro k hk
  unfold memWrite
  rw [memGet_writeBytes, dif_neg]
  have := slotAddr_disjoint q r i j h
  rw [entryBytes_length]
  omega

/-- Writing a slot leaves every byte outside it alone. -/
theorem memGet_memWrite_outside (m : Memory) (q : Fin 8) (i : Nat) (e : Entry) (a : Nat)
    (h : a < slotAddr q i ∨ slotAddr q i + 32 ≤ a) : memGet (memWrite m q i e) a = memGet m a := by
  unfold memWrite
  rw [memGet_writeBytes, dif_neg]
  rw [entryBytes_length]
  omega

end Sys2Proof.Machine
end

