-- ==== Sys2Proof/Laws/State.lean ====
section
/-! SUPPORT. What each update of the state does to each field: one lemma per field per update, so that no proof unfolds a record update. -/

namespace Sys2Proof.Machine

@[simp] theorem State.finish_rmq (a : Agent) (r : Result) (s : State) : (s.finish a r).rmq = s.rmq := rfl
@[simp] theorem State.finish_mem (a : Agent) (r : Result) (s : State) : (s.finish a r).mem = s.mem := rfl
@[simp] theorem State.finish_disp (a : Agent) (r : Result) (s : State) : (s.finish a r).disp = s.disp := rfl
@[simp] theorem State.finish_tx (a : Agent) (r : Result) (s : State) : (s.finish a r).tx = s.tx := rfl
@[simp] theorem State.finish_rx (a : Agent) (r : Result) (s : State) : (s.finish a r).rx = s.rx := rfl
@[simp] theorem State.finish_tmr (a : Agent) (r : Result) (s : State) : (s.finish a r).tmr = s.tmr := rfl
@[simp] theorem State.finish_gate (a : Agent) (r : Result) (s : State) : (s.finish a r).gate = s.gate := rfl
@[simp] theorem State.finish_noc (a : Agent) (r : Result) (s : State) : (s.finish a r).noc = s.noc := rfl
@[simp] theorem State.finish_fault (a : Agent) (r : Result) (s : State) : (s.finish a r).fault = s.fault := rfl
@[simp] theorem State.finish_refused (a : Agent) (r : Result) (s : State) : (s.finish a r).refused = s.refused := rfl
@[simp] theorem State.finish_events (a : Agent) (r : Result) (s : State) : (s.finish a r).events = s.events := rfl
@[simp] theorem State.finish_cfg (a : Agent) (r : Result) (s : State) : (s.finish a r).cfg = s.cfg := rfl
@[simp] theorem State.finish_inbox (a : Agent) (r : Result) (s : State) : (s.finish a r).inbox = s.inbox := rfl
@[simp] theorem State.finish_loop (a : Agent) (r : Result) (s : State) : (s.finish a r).loop = s.loop := rfl
@[simp] theorem State.finish_out (a : Agent) (r : Result) (s : State) : (s.finish a r).out = some (a, .result r) := rfl
@[simp] theorem State.finish_ext (a : Agent) (r : Result) (s : State) : (s.finish a r).ext = s.ext := rfl
@[simp] theorem State.finish_draws (a : Agent) (r : Result) (s : State) : (s.finish a r).draws = s.draws := rfl

@[simp] theorem State.refuse_rmq (a : Agent) (s : State) : (s.refuse a).rmq = s.rmq := rfl
@[simp] theorem State.refuse_mem (a : Agent) (s : State) : (s.refuse a).mem = s.mem := rfl
@[simp] theorem State.refuse_disp (a : Agent) (s : State) : (s.refuse a).disp = s.disp := rfl
@[simp] theorem State.refuse_tx (a : Agent) (s : State) : (s.refuse a).tx = s.tx := rfl
@[simp] theorem State.refuse_rx (a : Agent) (s : State) : (s.refuse a).rx = s.rx := rfl
@[simp] theorem State.refuse_tmr (a : Agent) (s : State) : (s.refuse a).tmr = s.tmr := rfl
@[simp] theorem State.refuse_gate (a : Agent) (s : State) : (s.refuse a).gate = s.gate := rfl
@[simp] theorem State.refuse_noc (a : Agent) (s : State) : (s.refuse a).noc = s.noc := rfl
@[simp] theorem State.refuse_fault (a : Agent) (s : State) : (s.refuse a).fault = s.fault := rfl
@[simp] theorem State.refuse_refused (a : Agent) (s : State) : (s.refuse a).refused = true := rfl
@[simp] theorem State.refuse_events (a : Agent) (s : State) : (s.refuse a).events = s.events := rfl
@[simp] theorem State.refuse_cfg (a : Agent) (s : State) : (s.refuse a).cfg = s.cfg := rfl
@[simp] theorem State.refuse_inbox (a : Agent) (s : State) : (s.refuse a).inbox = s.inbox := rfl
@[simp] theorem State.refuse_loop (a : Agent) (s : State) : (s.refuse a).loop = s.loop := rfl
@[simp] theorem State.refuse_out (a : Agent) (s : State) : (s.refuse a).out = some (a, .refusal) := rfl
@[simp] theorem State.refuse_ext (a : Agent) (s : State) : (s.refuse a).ext = s.ext := rfl
@[simp] theorem State.refuse_draws (a : Agent) (s : State) : (s.refuse a).draws = s.draws := rfl

@[simp] theorem State.raise_rmq (a : Agent) (f : FaultRec) (s : State) : (s.raise a f).rmq = s.rmq := rfl
@[simp] theorem State.raise_mem (a : Agent) (f : FaultRec) (s : State) : (s.raise a f).mem = s.mem := rfl
@[simp] theorem State.raise_disp (a : Agent) (f : FaultRec) (s : State) : (s.raise a f).disp = s.disp := rfl
@[simp] theorem State.raise_tx (a : Agent) (f : FaultRec) (s : State) : (s.raise a f).tx = s.tx := rfl
@[simp] theorem State.raise_rx (a : Agent) (f : FaultRec) (s : State) : (s.raise a f).rx = s.rx := rfl
@[simp] theorem State.raise_tmr (a : Agent) (f : FaultRec) (s : State) : (s.raise a f).tmr = s.tmr := rfl
@[simp] theorem State.raise_gate (a : Agent) (f : FaultRec) (s : State) : (s.raise a f).gate = s.gate := rfl
@[simp] theorem State.raise_noc (a : Agent) (f : FaultRec) (s : State) : (s.raise a f).noc = s.noc := rfl
@[simp] theorem State.raise_fault (a : Agent) (f : FaultRec) (s : State) : (s.raise a f).fault = addFault f s.fault := rfl
@[simp] theorem State.raise_refused (a : Agent) (f : FaultRec) (s : State) : (s.raise a f).refused = s.refused := rfl
@[simp] theorem State.raise_events (a : Agent) (f : FaultRec) (s : State) : (s.raise a f).events = s.events := rfl
@[simp] theorem State.raise_cfg (a : Agent) (f : FaultRec) (s : State) : (s.raise a f).cfg = s.cfg := rfl
@[simp] theorem State.raise_inbox (a : Agent) (f : FaultRec) (s : State) : (s.raise a f).inbox = s.inbox := rfl
@[simp] theorem State.raise_loop (a : Agent) (f : FaultRec) (s : State) : (s.raise a f).loop = s.loop := rfl
@[simp] theorem State.raise_out (a : Agent) (f : FaultRec) (s : State) : (s.raise a f).out = some (a, .fault f) := rfl
@[simp] theorem State.raise_ext (a : Agent) (f : FaultRec) (s : State) : (s.raise a f).ext = s.ext := rfl
@[simp] theorem State.raise_draws (a : Agent) (f : FaultRec) (s : State) : (s.raise a f).draws = s.draws := rfl

@[simp] theorem State.note_rmq (f : FaultRec) (s : State) : (s.note f).rmq = s.rmq := rfl
@[simp] theorem State.note_mem (f : FaultRec) (s : State) : (s.note f).mem = s.mem := rfl
@[simp] theorem State.note_disp (f : FaultRec) (s : State) : (s.note f).disp = s.disp := rfl
@[simp] theorem State.note_tx (f : FaultRec) (s : State) : (s.note f).tx = s.tx := rfl
@[simp] theorem State.note_rx (f : FaultRec) (s : State) : (s.note f).rx = s.rx := rfl
@[simp] theorem State.note_tmr (f : FaultRec) (s : State) : (s.note f).tmr = s.tmr := rfl
@[simp] theorem State.note_gate (f : FaultRec) (s : State) : (s.note f).gate = s.gate := rfl
@[simp] theorem State.note_noc (f : FaultRec) (s : State) : (s.note f).noc = s.noc := rfl
@[simp] theorem State.note_fault (f : FaultRec) (s : State) : (s.note f).fault = addFault f s.fault := rfl
@[simp] theorem State.note_refused (f : FaultRec) (s : State) : (s.note f).refused = s.refused := rfl
@[simp] theorem State.note_events (f : FaultRec) (s : State) : (s.note f).events = s.events := rfl
@[simp] theorem State.note_cfg (f : FaultRec) (s : State) : (s.note f).cfg = s.cfg := rfl
@[simp] theorem State.note_inbox (f : FaultRec) (s : State) : (s.note f).inbox = s.inbox := rfl
@[simp] theorem State.note_loop (f : FaultRec) (s : State) : (s.note f).loop = s.loop := rfl
@[simp] theorem State.note_out (f : FaultRec) (s : State) : (s.note f).out = s.out := rfl
@[simp] theorem State.note_ext (f : FaultRec) (s : State) : (s.note f).ext = s.ext := rfl
@[simp] theorem State.note_draws (f : FaultRec) (s : State) : (s.note f).draws = s.draws := rfl

@[simp] theorem State.emitAll_rmq (es : List Event) (s : State) : (s.emitAll es).rmq = s.rmq := rfl
@[simp] theorem State.emitAll_mem (es : List Event) (s : State) : (s.emitAll es).mem = s.mem := rfl
@[simp] theorem State.emitAll_disp (es : List Event) (s : State) : (s.emitAll es).disp = s.disp := rfl
@[simp] theorem State.emitAll_tx (es : List Event) (s : State) : (s.emitAll es).tx = s.tx := rfl
@[simp] theorem State.emitAll_rx (es : List Event) (s : State) : (s.emitAll es).rx = s.rx := rfl
@[simp] theorem State.emitAll_tmr (es : List Event) (s : State) : (s.emitAll es).tmr = s.tmr := rfl
@[simp] theorem State.emitAll_gate (es : List Event) (s : State) : (s.emitAll es).gate = s.gate := rfl
@[simp] theorem State.emitAll_noc (es : List Event) (s : State) : (s.emitAll es).noc = s.noc := rfl
@[simp] theorem State.emitAll_fault (es : List Event) (s : State) : (s.emitAll es).fault = s.fault := rfl
@[simp] theorem State.emitAll_refused (es : List Event) (s : State) : (s.emitAll es).refused = s.refused := rfl
@[simp] theorem State.emitAll_events (es : List Event) (s : State) : (s.emitAll es).events = s.events ++ numberEvents s.events.length es := rfl
@[simp] theorem State.emitAll_cfg (es : List Event) (s : State) : (s.emitAll es).cfg = s.cfg := rfl
@[simp] theorem State.emitAll_inbox (es : List Event) (s : State) : (s.emitAll es).inbox = s.inbox := rfl
@[simp] theorem State.emitAll_loop (es : List Event) (s : State) : (s.emitAll es).loop = s.loop := rfl
@[simp] theorem State.emitAll_out (es : List Event) (s : State) : (s.emitAll es).out = s.out := rfl
@[simp] theorem State.emitAll_ext (es : List Event) (s : State) : (s.emitAll es).ext = s.ext := rfl
@[simp] theorem State.emitAll_draws (es : List Event) (s : State) : (s.emitAll es).draws = s.draws := rfl

@[simp] theorem State.emit_rmq (e : Event) (s : State) : (s.emit e).rmq = s.rmq := rfl
@[simp] theorem State.emit_mem (e : Event) (s : State) : (s.emit e).mem = s.mem := rfl
@[simp] theorem State.emit_disp (e : Event) (s : State) : (s.emit e).disp = s.disp := rfl
@[simp] theorem State.emit_tx (e : Event) (s : State) : (s.emit e).tx = s.tx := rfl
@[simp] theorem State.emit_rx (e : Event) (s : State) : (s.emit e).rx = s.rx := rfl
@[simp] theorem State.emit_tmr (e : Event) (s : State) : (s.emit e).tmr = s.tmr := rfl
@[simp] theorem State.emit_gate (e : Event) (s : State) : (s.emit e).gate = s.gate := rfl
@[simp] theorem State.emit_noc (e : Event) (s : State) : (s.emit e).noc = s.noc := rfl
@[simp] theorem State.emit_fault (e : Event) (s : State) : (s.emit e).fault = s.fault := rfl
@[simp] theorem State.emit_refused (e : Event) (s : State) : (s.emit e).refused = s.refused := rfl
@[simp] theorem State.emit_events (e : Event) (s : State) : (s.emit e).events = s.events ++ [(s.events.length, e)] := rfl
@[simp] theorem State.emit_cfg (e : Event) (s : State) : (s.emit e).cfg = s.cfg := rfl
@[simp] theorem State.emit_inbox (e : Event) (s : State) : (s.emit e).inbox = s.inbox := rfl
@[simp] theorem State.emit_loop (e : Event) (s : State) : (s.emit e).loop = s.loop := rfl
@[simp] theorem State.emit_out (e : Event) (s : State) : (s.emit e).out = s.out := rfl
@[simp] theorem State.emit_ext (e : Event) (s : State) : (s.emit e).ext = s.ext := rfl
@[simp] theorem State.emit_draws (e : Event) (s : State) : (s.emit e).draws = s.draws := rfl

@[simp] theorem setPending_rmq (k : Byte) (v : Word) (s : State) : (setPending k v s).rmq = s.rmq := rfl
@[simp] theorem setPending_mem (k : Byte) (v : Word) (s : State) : (setPending k v s).mem = s.mem := rfl
@[simp] theorem setPending_disp (k : Byte) (v : Word) (s : State) : (setPending k v s).disp = s.disp := rfl
@[simp] theorem setPending_tx (k : Byte) (v : Word) (s : State) : (setPending k v s).tx = { s.tx with value := vset s.tx.value k.toNat v, pending := vset s.tx.pending k.toNat true } := rfl
@[simp] theorem setPending_rx (k : Byte) (v : Word) (s : State) : (setPending k v s).rx = s.rx := rfl
@[simp] theorem setPending_tmr (k : Byte) (v : Word) (s : State) : (setPending k v s).tmr = s.tmr := rfl
@[simp] theorem setPending_gate (k : Byte) (v : Word) (s : State) : (setPending k v s).gate = s.gate := rfl
@[simp] theorem setPending_noc (k : Byte) (v : Word) (s : State) : (setPending k v s).noc = s.noc := rfl
@[simp] theorem setPending_fault (k : Byte) (v : Word) (s : State) : (setPending k v s).fault = s.fault := rfl
@[simp] theorem setPending_refused (k : Byte) (v : Word) (s : State) : (setPending k v s).refused = s.refused := rfl
@[simp] theorem setPending_events (k : Byte) (v : Word) (s : State) : (setPending k v s).events = s.events := rfl
@[simp] theorem setPending_cfg (k : Byte) (v : Word) (s : State) : (setPending k v s).cfg = s.cfg := rfl
@[simp] theorem setPending_inbox (k : Byte) (v : Word) (s : State) : (setPending k v s).inbox = s.inbox := rfl
@[simp] theorem setPending_loop (k : Byte) (v : Word) (s : State) : (setPending k v s).loop = s.loop := rfl
@[simp] theorem setPending_out (k : Byte) (v : Word) (s : State) : (setPending k v s).out = s.out := rfl
@[simp] theorem setPending_ext (k : Byte) (v : Word) (s : State) : (setPending k v s).ext = s.ext := rfl
@[simp] theorem setPending_draws (k : Byte) (v : Word) (s : State) : (setPending k v s).draws = s.draws := rfl

@[simp] theorem clearInflight_rmq (s : State) : (clearInflight s).rmq = s.rmq := rfl
@[simp] theorem clearInflight_mem (s : State) : (clearInflight s).mem = s.mem := rfl
@[simp] theorem clearInflight_disp (s : State) : (clearInflight s).disp = s.disp := rfl
@[simp] theorem clearInflight_tx (s : State) : (clearInflight s).tx = { s.tx with inflight := { s.tx.inflight with valid := false } } := rfl
@[simp] theorem clearInflight_rx (s : State) : (clearInflight s).rx = s.rx := rfl
@[simp] theorem clearInflight_tmr (s : State) : (clearInflight s).tmr = s.tmr := rfl
@[simp] theorem clearInflight_gate (s : State) : (clearInflight s).gate = s.gate := rfl
@[simp] theorem clearInflight_noc (s : State) : (clearInflight s).noc = s.noc := rfl
@[simp] theorem clearInflight_fault (s : State) : (clearInflight s).fault = s.fault := rfl
@[simp] theorem clearInflight_refused (s : State) : (clearInflight s).refused = s.refused := rfl
@[simp] theorem clearInflight_events (s : State) : (clearInflight s).events = s.events := rfl
@[simp] theorem clearInflight_cfg (s : State) : (clearInflight s).cfg = s.cfg := rfl
@[simp] theorem clearInflight_inbox (s : State) : (clearInflight s).inbox = s.inbox := rfl
@[simp] theorem clearInflight_loop (s : State) : (clearInflight s).loop = s.loop := rfl
@[simp] theorem clearInflight_out (s : State) : (clearInflight s).out = s.out := rfl
@[simp] theorem clearInflight_ext (s : State) : (clearInflight s).ext = s.ext := rfl
@[simp] theorem clearInflight_draws (s : State) : (clearInflight s).draws = s.draws := rfl

@[simp] theorem startReset_rmq (arg : Word) (s : State) : (startReset arg s).rmq = s.rmq := rfl
@[simp] theorem startReset_mem (arg : Word) (s : State) : (startReset arg s).mem = s.mem := rfl
@[simp] theorem startReset_disp (arg : Word) (s : State) : (startReset arg s).disp = s.disp := rfl
@[simp] theorem startReset_tx (arg : Word) (s : State) : (startReset arg s).tx = s.tx := rfl
@[simp] theorem startReset_rx (arg : Word) (s : State) : (startReset arg s).rx = s.rx := rfl
@[simp] theorem startReset_tmr (arg : Word) (s : State) : (startReset arg s).tmr = { s.tmr with rstPending := true, rstRemaining := s.cfg.resetDelayTicks, rstArg := arg } := rfl
@[simp] theorem startReset_gate (arg : Word) (s : State) : (startReset arg s).gate = s.gate := rfl
@[simp] theorem startReset_noc (arg : Word) (s : State) : (startReset arg s).noc = s.noc := rfl
@[simp] theorem startReset_fault (arg : Word) (s : State) : (startReset arg s).fault = s.fault := rfl
@[simp] theorem startReset_refused (arg : Word) (s : State) : (startReset arg s).refused = s.refused := rfl
@[simp] theorem startReset_events (arg : Word) (s : State) : (startReset arg s).events = s.events := rfl
@[simp] theorem startReset_cfg (arg : Word) (s : State) : (startReset arg s).cfg = s.cfg := rfl
@[simp] theorem startReset_inbox (arg : Word) (s : State) : (startReset arg s).inbox = s.inbox := rfl
@[simp] theorem startReset_loop (arg : Word) (s : State) : (startReset arg s).loop = s.loop := rfl
@[simp] theorem startReset_out (arg : Word) (s : State) : (startReset arg s).out = s.out := rfl
@[simp] theorem startReset_ext (arg : Word) (s : State) : (startReset arg s).ext = s.ext := rfl
@[simp] theorem startReset_draws (arg : Word) (s : State) : (startReset arg s).draws = s.draws := rfl

@[simp] theorem takeSem_rmq (s : State) : (takeSem s).rmq = s.rmq := rfl
@[simp] theorem takeSem_mem (s : State) : (takeSem s).mem = s.mem := rfl
@[simp] theorem takeSem_disp (s : State) : (takeSem s).disp = s.disp := rfl
@[simp] theorem takeSem_tx (s : State) : (takeSem s).tx = s.tx := rfl
@[simp] theorem takeSem_rx (s : State) : (takeSem s).rx = s.rx := rfl
@[simp] theorem takeSem_tmr (s : State) : (takeSem s).tmr = { s.tmr with sem := s.tmr.sem - 1 } := rfl
@[simp] theorem takeSem_gate (s : State) : (takeSem s).gate = s.gate := rfl
@[simp] theorem takeSem_noc (s : State) : (takeSem s).noc = s.noc := rfl
@[simp] theorem takeSem_fault (s : State) : (takeSem s).fault = s.fault := rfl
@[simp] theorem takeSem_refused (s : State) : (takeSem s).refused = s.refused := rfl
@[simp] theorem takeSem_events (s : State) : (takeSem s).events = s.events := rfl
@[simp] theorem takeSem_cfg (s : State) : (takeSem s).cfg = s.cfg := rfl
@[simp] theorem takeSem_inbox (s : State) : (takeSem s).inbox = s.inbox := rfl
@[simp] theorem takeSem_loop (s : State) : (takeSem s).loop = s.loop := rfl
@[simp] theorem takeSem_out (s : State) : (takeSem s).out = s.out := rfl
@[simp] theorem takeSem_ext (s : State) : (takeSem s).ext = s.ext := rfl
@[simp] theorem takeSem_draws (s : State) : (takeSem s).draws = s.draws := rfl

@[simp] theorem armPing_rmq (s : State) : (armPing s).rmq = s.rmq := rfl
@[simp] theorem armPing_mem (s : State) : (armPing s).mem = s.mem := rfl
@[simp] theorem armPing_disp (s : State) : (armPing s).disp = s.disp := rfl
@[simp] theorem armPing_tx (s : State) : (armPing s).tx = s.tx := rfl
@[simp] theorem armPing_rx (s : State) : (armPing s).rx = s.rx := rfl
@[simp] theorem armPing_tmr (s : State) : (armPing s).tmr = { s.tmr with pingWait := true, pingRemaining := s.cfg.pingTimeoutTicks } := rfl
@[simp] theorem armPing_gate (s : State) : (armPing s).gate = s.gate := rfl
@[simp] theorem armPing_noc (s : State) : (armPing s).noc = s.noc := rfl
@[simp] theorem armPing_fault (s : State) : (armPing s).fault = s.fault := rfl
@[simp] theorem armPing_refused (s : State) : (armPing s).refused = s.refused := rfl
@[simp] theorem armPing_events (s : State) : (armPing s).events = s.events := rfl
@[simp] theorem armPing_cfg (s : State) : (armPing s).cfg = s.cfg := rfl
@[simp] theorem armPing_inbox (s : State) : (armPing s).inbox = s.inbox := rfl
@[simp] theorem armPing_loop (s : State) : (armPing s).loop = s.loop := rfl
@[simp] theorem armPing_out (s : State) : (armPing s).out = s.out := rfl
@[simp] theorem armPing_ext (s : State) : (armPing s).ext = s.ext := rfl
@[simp] theorem armPing_draws (s : State) : (armPing s).draws = s.draws := rfl

@[simp] theorem acceptSeq_rmq (seq : Byte) (s : State) : (acceptSeq seq s).rmq = s.rmq := rfl
@[simp] theorem acceptSeq_mem (seq : Byte) (s : State) : (acceptSeq seq s).mem = s.mem := rfl
@[simp] theorem acceptSeq_disp (seq : Byte) (s : State) : (acceptSeq seq s).disp = s.disp := rfl
@[simp] theorem acceptSeq_tx (seq : Byte) (s : State) : (acceptSeq seq s).tx = s.tx := rfl
@[simp] theorem acceptSeq_rx (seq : Byte) (s : State) : (acceptSeq seq s).rx = { s.rx with lastSeq := seq, lastSeqValid := true, dupLogValid := false } := rfl
@[simp] theorem acceptSeq_tmr (seq : Byte) (s : State) : (acceptSeq seq s).tmr = s.tmr := rfl
@[simp] theorem acceptSeq_gate (seq : Byte) (s : State) : (acceptSeq seq s).gate = s.gate := rfl
@[simp] theorem acceptSeq_noc (seq : Byte) (s : State) : (acceptSeq seq s).noc = s.noc := rfl
@[simp] theorem acceptSeq_fault (seq : Byte) (s : State) : (acceptSeq seq s).fault = s.fault := rfl
@[simp] theorem acceptSeq_refused (seq : Byte) (s : State) : (acceptSeq seq s).refused = s.refused := rfl
@[simp] theorem acceptSeq_events (seq : Byte) (s : State) : (acceptSeq seq s).events = s.events := rfl
@[simp] theorem acceptSeq_cfg (seq : Byte) (s : State) : (acceptSeq seq s).cfg = s.cfg := rfl
@[simp] theorem acceptSeq_inbox (seq : Byte) (s : State) : (acceptSeq seq s).inbox = s.inbox := rfl
@[simp] theorem acceptSeq_loop (seq : Byte) (s : State) : (acceptSeq seq s).loop = s.loop := rfl
@[simp] theorem acceptSeq_out (seq : Byte) (s : State) : (acceptSeq seq s).out = s.out := rfl
@[simp] theorem acceptSeq_ext (seq : Byte) (s : State) : (acceptSeq seq s).ext = s.ext := rfl
@[simp] theorem acceptSeq_draws (seq : Byte) (s : State) : (acceptSeq seq s).draws = s.draws := rfl

@[simp] theorem clearTables_rmq (s : State) : (clearTables s).rmq = s.rmq := rfl
@[simp] theorem clearTables_mem (s : State) : (clearTables s).mem = s.mem := rfl
@[simp] theorem clearTables_disp (s : State) : (clearTables s).disp = s.disp := rfl
@[simp] theorem clearTables_tx (s : State) : (clearTables s).tx = s.tx := rfl
@[simp] theorem clearTables_rx (s : State) : (clearTables s).rx = s.rx := rfl
@[simp] theorem clearTables_tmr (s : State) : (clearTables s).tmr = s.tmr := rfl
@[simp] theorem clearTables_gate (s : State) : (clearTables s).gate = s.gate := rfl
@[simp] theorem clearTables_noc (s : State) : (clearTables s).noc = { s.noc with ring0 := clearedTable s.cfg.geo, ring1 := mirror (clearedTable s.cfg.geo) } := rfl
@[simp] theorem clearTables_fault (s : State) : (clearTables s).fault = s.fault := rfl
@[simp] theorem clearTables_refused (s : State) : (clearTables s).refused = s.refused := rfl
@[simp] theorem clearTables_events (s : State) : (clearTables s).events = s.events := rfl
@[simp] theorem clearTables_cfg (s : State) : (clearTables s).cfg = s.cfg := rfl
@[simp] theorem clearTables_inbox (s : State) : (clearTables s).inbox = s.inbox := rfl
@[simp] theorem clearTables_loop (s : State) : (clearTables s).loop = s.loop := rfl
@[simp] theorem clearTables_out (s : State) : (clearTables s).out = s.out := rfl
@[simp] theorem clearTables_ext (s : State) : (clearTables s).ext = s.ext := rfl
@[simp] theorem clearTables_draws (s : State) : (clearTables s).draws = s.draws := rfl

@[simp] theorem endDstep_rmq (c : Fin 4) (s : State) : (endDstep c s).rmq = s.rmq := rfl
@[simp] theorem endDstep_mem (c : Fin 4) (s : State) : (endDstep c s).mem = s.mem := rfl
@[simp] theorem endDstep_disp (c : Fin 4) (s : State) : (endDstep c s).disp = s.disp := rfl
@[simp] theorem endDstep_tx (c : Fin 4) (s : State) : (endDstep c s).tx = s.tx := rfl
@[simp] theorem endDstep_rx (c : Fin 4) (s : State) : (endDstep c s).rx = s.rx := rfl
@[simp] theorem endDstep_tmr (c : Fin 4) (s : State) : (endDstep c s).tmr = s.tmr := rfl
@[simp] theorem endDstep_gate (c : Fin 4) (s : State) : (endDstep c s).gate = s.gate := rfl
@[simp] theorem endDstep_noc (c : Fin 4) (s : State) : (endDstep c s).noc = s.noc := rfl
@[simp] theorem endDstep_fault (c : Fin 4) (s : State) : (endDstep c s).fault = s.fault := rfl
@[simp] theorem endDstep_refused (c : Fin 4) (s : State) : (endDstep c s).refused = s.refused := rfl
@[simp] theorem endDstep_events (c : Fin 4) (s : State) : (endDstep c s).events = s.events := rfl
@[simp] theorem endDstep_cfg (c : Fin 4) (s : State) : (endDstep c s).cfg = s.cfg := rfl
@[simp] theorem endDstep_inbox (c : Fin 4) (s : State) : (endDstep c s).inbox = s.inbox := rfl
@[simp] theorem endDstep_loop (c : Fin 4) (s : State) : (endDstep c s).loop = afterDstep c := rfl
@[simp] theorem endDstep_out (c : Fin 4) (s : State) : (endDstep c s).out = some (.loop, .result .ok) := rfl
@[simp] theorem endDstep_ext (c : Fin 4) (s : State) : (endDstep c s).ext = s.ext := rfl
@[simp] theorem endDstep_draws (c : Fin 4) (s : State) : (endDstep c s).draws = s.draws := rfl

@[simp] theorem storeKind_rmq (id : Byte) (data : Word) (s : State) : (storeKind id data s).rmq = s.rmq := rfl
@[simp] theorem storeKind_mem (id : Byte) (data : Word) (s : State) : (storeKind id data s).mem = s.mem := rfl
@[simp] theorem storeKind_disp (id : Byte) (data : Word) (s : State) : (storeKind id data s).disp = s.disp := rfl
@[simp] theorem storeKind_tx (id : Byte) (data : Word) (s : State) : (storeKind id data s).tx = s.tx := rfl
@[simp] theorem storeKind_rx (id : Byte) (data : Word) (s : State) : (storeKind id data s).rx = { s.rx with value := vset s.rx.value id.toNat data } := rfl
@[simp] theorem storeKind_tmr (id : Byte) (data : Word) (s : State) : (storeKind id data s).tmr = s.tmr := rfl
@[simp] theorem storeKind_gate (id : Byte) (data : Word) (s : State) : (storeKind id data s).gate = s.gate := rfl
@[simp] theorem storeKind_noc (id : Byte) (data : Word) (s : State) : (storeKind id data s).noc = s.noc := rfl
@[simp] theorem storeKind_fault (id : Byte) (data : Word) (s : State) : (storeKind id data s).fault = s.fault := rfl
@[simp] theorem storeKind_refused (id : Byte) (data : Word) (s : State) : (storeKind id data s).refused = s.refused := rfl
@[simp] theorem storeKind_events (id : Byte) (data : Word) (s : State) : (storeKind id data s).events = s.events ++ [(s.events.length, .kindUpdate id data)] := rfl
@[simp] theorem storeKind_cfg (id : Byte) (data : Word) (s : State) : (storeKind id data s).cfg = s.cfg := rfl
@[simp] theorem storeKind_inbox (id : Byte) (data : Word) (s : State) : (storeKind id data s).inbox = s.inbox := rfl
@[simp] theorem storeKind_loop (id : Byte) (data : Word) (s : State) : (storeKind id data s).loop = s.loop := rfl
@[simp] theorem storeKind_out (id : Byte) (data : Word) (s : State) : (storeKind id data s).out = s.out := rfl
@[simp] theorem storeKind_ext (id : Byte) (data : Word) (s : State) : (storeKind id data s).ext = s.ext := rfl
@[simp] theorem storeKind_draws (id : Byte) (data : Word) (s : State) : (storeKind id data s).draws = s.draws := rfl

@[simp] theorem programNodes_rmq (s : State) : (programNodes s).rmq = s.rmq := rfl
@[simp] theorem programNodes_mem (s : State) : (programNodes s).mem = s.mem := rfl
@[simp] theorem programNodes_disp (s : State) : (programNodes s).disp = s.disp := rfl
@[simp] theorem programNodes_tx (s : State) : (programNodes s).tx = s.tx := rfl
@[simp] theorem programNodes_rx (s : State) : (programNodes s).rx = s.rx := rfl
@[simp] theorem programNodes_tmr (s : State) : (programNodes s).tmr = s.tmr := rfl
@[simp] theorem programNodes_gate (s : State) : (programNodes s).gate = s.gate := rfl
@[simp] theorem programNodes_noc (s : State) : (programNodes s).noc = s.noc := rfl
@[simp] theorem programNodes_fault (s : State) : (programNodes s).fault = s.fault := rfl
@[simp] theorem programNodes_refused (s : State) : (programNodes s).refused = s.refused := rfl
@[simp] theorem programNodes_events (s : State) : (programNodes s).events = s.events ++ numberEvents s.events.length (ringEvents s.cfg.geo 0 s.noc.ring0 ++ ringEvents s.cfg.geo 1 s.noc.ring1) := rfl
@[simp] theorem programNodes_cfg (s : State) : (programNodes s).cfg = s.cfg := rfl
@[simp] theorem programNodes_inbox (s : State) : (programNodes s).inbox = s.inbox := rfl
@[simp] theorem programNodes_loop (s : State) : (programNodes s).loop = s.loop := rfl
@[simp] theorem programNodes_out (s : State) : (programNodes s).out = s.out := rfl
@[simp] theorem programNodes_ext (s : State) : (programNodes s).ext = s.ext := rfl
@[simp] theorem programNodes_draws (s : State) : (programNodes s).draws = s.draws := rfl

@[simp] theorem debugHarvest_harvValid (d : DbgNoc) (s : State) : (debugHarvest d s).noc.harvValid = true := rfl
@[simp] theorem debugHarvest_ring0 (d : DbgNoc) (s : State) : (debugHarvest d s).noc.ring0 = s.noc.ring0 := rfl
@[simp] theorem debugHarvest_ring1 (d : DbgNoc) (s : State) : (debugHarvest d s).noc.ring1 = s.noc.ring1 := rfl
@[simp] theorem debugHarvest_precondViolated (d : DbgNoc) (s : State) : (debugHarvest d s).noc.precondViolated = s.noc.precondViolated := rfl
@[simp] theorem debugHarvest_rmq (d : DbgNoc) (s : State) : (debugHarvest d s).rmq = s.rmq := rfl
@[simp] theorem debugHarvest_mem (d : DbgNoc) (s : State) : (debugHarvest d s).mem = s.mem := rfl
@[simp] theorem debugHarvest_disp (d : DbgNoc) (s : State) : (debugHarvest d s).disp = s.disp := rfl
@[simp] theorem debugHarvest_tx (d : DbgNoc) (s : State) : (debugHarvest d s).tx = s.tx := rfl
@[simp] theorem debugHarvest_rx (d : DbgNoc) (s : State) : (debugHarvest d s).rx = s.rx := rfl
@[simp] theorem debugHarvest_tmr (d : DbgNoc) (s : State) : (debugHarvest d s).tmr = s.tmr := rfl
@[simp] theorem debugHarvest_gate (d : DbgNoc) (s : State) : (debugHarvest d s).gate = s.gate := rfl
@[simp] theorem debugHarvest_fault (d : DbgNoc) (s : State) : (debugHarvest d s).fault = s.fault := rfl
@[simp] theorem debugHarvest_refused (d : DbgNoc) (s : State) : (debugHarvest d s).refused = s.refused := rfl
@[simp] theorem debugHarvest_events (d : DbgNoc) (s : State) : (debugHarvest d s).events = s.events := rfl
@[simp] theorem debugHarvest_cfg (d : DbgNoc) (s : State) : (debugHarvest d s).cfg = s.cfg := rfl
@[simp] theorem debugHarvest_inbox (d : DbgNoc) (s : State) : (debugHarvest d s).inbox = s.inbox := rfl
@[simp] theorem debugHarvest_loop (d : DbgNoc) (s : State) : (debugHarvest d s).loop = s.loop := rfl
@[simp] theorem debugHarvest_out (d : DbgNoc) (s : State) : (debugHarvest d s).out = s.out := rfl
@[simp] theorem debugHarvest_ext (d : DbgNoc) (s : State) : (debugHarvest d s).ext = s.ext := rfl
@[simp] theorem debugHarvest_draws (d : DbgNoc) (s : State) : (debugHarvest d s).draws = s.draws := rfl

@[simp] theorem blockReset_rmq (s : State) : (blockReset s).rmq = (State.powerOn s.cfg).rmq := rfl
@[simp] theorem blockReset_mem (s : State) : (blockReset s).mem = (State.powerOn s.cfg).mem := rfl
@[simp] theorem blockReset_disp (s : State) : (blockReset s).disp = (State.powerOn s.cfg).disp := rfl
@[simp] theorem blockReset_tx (s : State) : (blockReset s).tx = (State.powerOn s.cfg).tx := rfl
@[simp] theorem blockReset_rx (s : State) : (blockReset s).rx = (State.powerOn s.cfg).rx := rfl
@[simp] theorem blockReset_tmr (s : State) : (blockReset s).tmr = (State.powerOn s.cfg).tmr := rfl
@[simp] theorem blockReset_gate (s : State) : (blockReset s).gate = (State.powerOn s.cfg).gate := rfl
@[simp] theorem blockReset_noc (s : State) : (blockReset s).noc = (State.powerOn s.cfg).noc := rfl
@[simp] theorem blockReset_fault (s : State) : (blockReset s).fault = (State.powerOn s.cfg).fault := rfl
@[simp] theorem blockReset_refused (s : State) : (blockReset s).refused = (State.powerOn s.cfg).refused := rfl
@[simp] theorem blockReset_events (s : State) : (blockReset s).events = s.events := rfl
@[simp] theorem blockReset_cfg (s : State) : (blockReset s).cfg = s.cfg := rfl
@[simp] theorem blockReset_inbox (s : State) : (blockReset s).inbox = s.inbox := rfl
@[simp] theorem blockReset_loop (s : State) : (blockReset s).loop = (State.powerOn s.cfg).loop := rfl
@[simp] theorem blockReset_out (s : State) : (blockReset s).out = some (.reset, .result .ok) := rfl
@[simp] theorem blockReset_ext (s : State) : (blockReset s).ext = s.ext := rfl
@[simp] theorem blockReset_draws (s : State) : (blockReset s).draws = s.draws := rfl

end Sys2Proof.Machine
end

