-- ==== Sys2Proof/Laws/Ops.lean ====
section
/-! SUPPORT. For each shared operation, what it can do, said once. -/

namespace Sys2Proof.Machine

/-! ## Fault set and events -/

/-- The fault set after a record is added. -/
theorem mem_addFault (f g : FaultRec) (fs : List FaultRec) : g ∈ addFault f fs ↔ g = f ∨ g ∈ fs := by
  unfold addFault
  split
  · constructor
    · exact .inr
    · rintro (rfl | h) <;> assumption
  · rw [List.mem_append, List.mem_singleton, or_comm]

/-- Adding a record keeps the fault set free of repeats. -/
theorem addFault_nodup (f : FaultRec) (fs : List FaultRec) (h : fs.Nodup) : (addFault f fs).Nodup := by
  unfold addFault
  split
  · exact h
  · rename_i hf
    rw [List.nodup_append]
    refine ⟨h, List.nodup_singleton f, ?_⟩
    intro a ha b hb
    rw [List.mem_singleton] at hb
    subst hb
    exact fun e => hf (e ▸ ha)

/-- No record is ever lost. -/
theorem subset_addFault (f : FaultRec) (fs : List FaultRec) : ∀ g ∈ fs, g ∈ addFault f fs :=
  fun g hg => (mem_addFault f g fs).mpr (.inr hg)

@[simp] theorem numberEvents_length (n : Nat) (es : List Event) : (numberEvents n es).length = es.length := by
  induction es generalizing n with
  | nil => rfl
  | cons e es ih => simp [numberEvents, ih]

/-- Events are numbered one after the other. -/
theorem numberEvents_fst (n : Nat) (es : List Event) : (numberEvents n es).map Prod.fst = List.range' n es.length := by
  induction es generalizing n with
  | nil => rfl
  | cons e es ih => simp [numberEvents, ih, List.range'_succ]

theorem numberEvents_snd (n : Nat) (es : List Event) : (numberEvents n es).map Prod.snd = es := by
  induction es generalizing n with
  | nil => rfl
  | cons e es ih => simp [numberEvents, ih]

theorem numberEvents_append (n : Nat) (es fs : List Event) :
    numberEvents n (es ++ fs) = numberEvents n es ++ numberEvents (n + es.length) fs := by
  induction es generalizing n with
  | nil => simp [numberEvents]
  | cons e es ih => simp [numberEvents, ih, Nat.add_assoc, Nat.add_comm 1]

/-- The `k`-th event of a numbered list. -/
theorem numberEvents_getElem? (n k : Nat) (es : List Event) :
    (numberEvents n es)[k]? = es[k]?.map (fun e => (n + k, e)) := by
  induction es generalizing n k with
  | nil => simp [numberEvents]
  | cons e es ih =>
    cases k with
    | zero => simp [numberEvents]
    | succ k =>
      simp only [numberEvents, List.getElem?_cons_succ, ih]
      cases es[k]? with
      | none => rfl
      | some x => simp; omega

/-! ## Queues -/

/-- A push to a full queue does nothing. -/
theorem tryPush_full (q : Fin 8) (e : Entry) (s : State) (h : s.cfg.queueCapacity ≤ s.occ q) : tryPush q e s = none := by
  simp [tryPush, h]

/-- A push to a queue with room. -/
theorem tryPush_room (q : Fin 8) (e : Entry) (s : State) (h : s.occ q < s.cfg.queueCapacity) :
    tryPush q e s = some { s with
      mem := memWrite s.mem q (slotOf s.cfg.queueCapacity s.rmq[q].wp) e
      rmq := s.rmq.set q { s.rmq[q] with wp := nextPtr s.cfg.queueCapacity s.rmq[q].wp } } := by
  simp [tryPush, Nat.not_le.mpr h]

/-- The other queues keep their pointers when one is set. -/
theorem rmq_set_other (v : Vector QueuePtrs 8) (q r : Fin 8) (p : QueuePtrs) (h : r ≠ q) : (v.set q p)[r] = v[r] := by
  have : q.val ≠ r.val := fun e => h (Fin.ext e).symm
  simp [this]

/-- All that an accepted push does. -/
theorem tryPush_spec (q : Fin 8) (e : Entry) (s t : State) (h : tryPush q e s = some t) :
    s.occ q < s.cfg.queueCapacity ∧ StoredEntry q e s t ∧ t = { s with mem := t.mem, rmq := t.rmq } := by
  by_cases hc : s.cfg.queueCapacity ≤ s.occ q
  · simp [tryPush_full q e s hc] at h
  · have hr := Nat.lt_of_not_le hc
    rw [tryPush_room q e s hr] at h
    have ht := (Option.some.inj h).symm
    have hm : t.mem = memWrite s.mem q (slotOf s.cfg.queueCapacity s.rmq[q].wp) e := by rw [ht]
    have hq : t.rmq = s.rmq.set q { s.rmq[q] with wp := nextPtr s.cfg.queueCapacity s.rmq[q].wp } := by rw [ht]
    refine ⟨hr, ⟨?_, ?_, ?_, ?_⟩, ?_⟩
    · rw [hm]; exact memRead_memWrite_same _ _ _ _
    · intro a ha
      rw [hm]; exact memGet_memWrite_outside _ _ _ _ a ha
    · rw [hq]; simp [nextPtr]
    · intro r hr'
      rw [hq, rmq_set_other _ _ _ _ hr']
    · rw [hm, hq]; exact ht

/-- All that a pop can find. -/
theorem tryPop_cases (q : Fin 8) (s : State) :
    (s.rmq[q].wp = s.rmq[q].rp ∧ tryPop q s = .empty)
      ∨ (s.rmq[q].wp ≠ s.rmq[q].rp ∧ memRead s.mem q (slotOf s.cfg.queueCapacity s.rmq[q].rp) = none ∧ tryPop q s = .unwritten)
      ∨ ∃ e, s.rmq[q].wp ≠ s.rmq[q].rp ∧ memRead s.mem q (slotOf s.cfg.queueCapacity s.rmq[q].rp) = some e
          ∧ tryPop q s = .got e { s with rmq := s.rmq.set q { s.rmq[q] with rp := nextPtr s.cfg.queueCapacity s.rmq[q].rp } } := by
  by_cases h : s.rmq[q].wp = s.rmq[q].rp
  · exact .inl ⟨h, by simp only [tryPop, if_pos h]⟩
  · cases hm : memRead s.mem q (slotOf s.cfg.queueCapacity s.rmq[q].rp) with
    | none => exact .inr (.inl ⟨h, rfl, by simp only [tryPop, if_neg h, hm]⟩)
    | some e => exact .inr (.inr ⟨e, h, rfl, by simp only [tryPop, if_neg h, hm]⟩)

/-! ## Dispatch -/

/-- All that the end of a DSTEP does with a response. -/
theorem respond_spec (c : Fin 4) (rsp : Entry) (s : State) : Responded c rsp s (respond c rsp s) := by
  by_cases h : s.cfg.queueCapacity ≤ s.occ (rspQueue c)
  · refine ⟨fun hc => absurd h (Nat.not_le.mpr hc), fun _ => ?_⟩
    simp only [respond, tryPush_full _ _ _ h, Option.getD_none]
    rfl
  · refine ⟨fun hc => ?_, fun hc => absurd hc h⟩
    obtain ⟨t, ht⟩ : ∃ t, tryPush (rspQueue c) rsp s = some t := ⟨_, tryPush_room _ _ _ hc⟩
    obtain ⟨_, hs, he⟩ := tryPush_spec _ _ _ _ ht
    simp only [respond, ht, Option.getD_some]
    refine ⟨hs, ?_⟩
    conv_lhs => rw [he]
    rfl

/-- A response changes nothing but its queue, the events, LOOP's place and the outcome. -/
theorem respond_frame (c : Fin 4) (rsp : Entry) (s : State) :
    respond c rsp s = { s with mem := (respond c rsp s).mem, rmq := (respond c rsp s).rmq, events := (respond c rsp s).events,
                               loop := afterDstep c, out := some (.loop, .result .ok) } := by
  have h := respond_spec c rsp s
  by_cases hc : s.cfg.queueCapacity ≤ s.occ (rspQueue c)
  · have := h.2 hc
    rw [this]
  · have := (h.1 (Nat.lt_of_not_le hc)).2
    rw [this]

/-- What a DSTEP does, by the phase and what the channel holds. -/
theorem dstep_cases (c : Fin 4) (s : State) :
    (s.disp.phase ≠ .run ∧ dstep c s = .next ({ s with loop := .idle }.raise .loop ⟨.dispatchBeforeStart, 0x12, BitVec.ofNat 8 c.val⟩))
      ∨ (s.disp.phase = .run ∧ tryPop (reqQueue c) s = .empty ∧ dstep c s = .next (endDstep c s))
      ∨ (s.disp.phase = .run ∧ tryPop (reqQueue c) s = .unwritten ∧ dstep c s = .fault (unwrittenAt (reqQueue c) s))
      ∨ ∃ e u, s.disp.phase = .run ∧ tryPop (reqQueue c) s = .got e u ∧ dstep c s = .next (dispatchRequest c e u) := by
  by_cases h : s.disp.phase = .run
  · cases hp : tryPop (reqQueue c) s with
    | empty => exact .inr (.inl ⟨h, rfl, by simp [dstep, h, hp]⟩)
    | unwritten => exact .inr (.inr (.inl ⟨h, rfl, by simp [dstep, h, hp]⟩))
    | got e u => exact .inr (.inr (.inr ⟨e, u, h, rfl, by simp [dstep, h, hp]⟩))
  · exact .inl ⟨h, by simp [dstep, h]⟩

/-- A request whose code has no handler gets the zero response. -/
theorem dispatchRequest_none (c : Fin 4) (e : Entry) (s : State) (h : vget s.disp.table (requestCode e).toNat none = none) :
    dispatchRequest c e s = respond c Entry.zero s := by
  simp [dispatchRequest, h]

/-- A request whose code has a handler: the handler that runs, and the response. -/
theorem dispatchRequest_some (c : Fin 4) (e : Entry) (s : State) (h : HandlerName)
    (ht : vget s.disp.table (requestCode e).toNat none = some h) :
    dispatchRequest c e s = match h with
      | .external id =>
        respond c (responseEntry (Config.externalHandler id (requestCode e) e s.ext).status (Config.externalHandler id (requestCode e) e s.ext).out)
          { s.emit (.handlerCall (requestCode e)) with ext := (Config.externalHandler id (requestCode e) e s.ext).ext }
      | .pingDM => pingDmStart c (s.emit (.handlerCall (requestCode e)))
      | .debugNoc =>
        respond c (responseEntry (debugNoc (dbgNocFields e) (s.emit (.handlerCall (requestCode e)))).1 Entry.zero)
          (debugNoc (dbgNocFields e) (s.emit (.handlerCall (requestCode e)))).2 := by
  simp only [dispatchRequest, ht]
  cases h <;> rfl

/-- What `H_PINGDM` does in one step, by the semaphore. -/
theorem pingDmStart_cases (c : Fin 4) (s : State) :
    (s.tmr.sem ≠ 0 ∧ pingDmStart c s = respond c (pingDmResponse true) (takeSem (setPending s.cfg.kindId.ping 0 s)))
      ∨ (s.tmr.sem = 0 ∧ pingDmStart c s = { armPing (setPending s.cfg.kindId.ping 0 s) with loop := .heldDispatch c, out := some (.loop, .hold) }) := by
  by_cases h : s.tmr.sem = 0
  · exact .inr ⟨h, by simp [pingDmStart, setPending, h]⟩
  · refine .inl ⟨h, ?_⟩
    have hp : 0 < s.tmr.sem.toNat := Nat.pos_of_ne_zero (fun e => h (BitVec.eq_of_toNat_eq e))
    simp [pingDmStart, setPending, hp]

/-! ## CM2DM -/

/-- SELECT's scan finds nothing exactly when no kind below KIND_COUNT is pending at a scanned place. -/
theorem scanPending_none (s : State) (h : scanPending s = none) (i : Nat) (hi : i < s.cfg.kindCount) :
    vget s.tx.pending ((s.tx.nextIdRr + i) % s.cfg.kindCount) false = false := by
  unfold scanPending at h
  rw [List.find?_eq_none] at h
  have := h ((s.tx.nextIdRr + i) % s.cfg.kindCount) (List.mem_map.mpr ⟨i, List.mem_range.mpr hi, rfl⟩)
  simpa using this

/-- A kind that SELECT's scan finds is pending. -/
theorem scanPending_some (s : State) (k : Nat) (h : scanPending s = some k) :
    vget s.tx.pending k false = true ∧ ∃ i, i < s.cfg.kindCount ∧ k = (s.tx.nextIdRr + i) % s.cfg.kindCount := by
  unfold scanPending at h
  have h1 := List.find?_some h
  have h2 := List.mem_of_find?_eq_some h
  obtain ⟨i, hi, he⟩ := List.mem_map.mp h2
  exact ⟨h1, i, List.mem_range.mp hi, he.symm⟩

/-- SELECT writes the transmit half only. -/
theorem selectNext_frame (s : State) : selectNext s = { s with tx := (selectNext s).tx } := by
  unfold selectNext
  split <;> rfl

/-- SEM_GIVE writes the events and the timers' fields only. -/
theorem semGive_frame (s : State) : semGive s = { s with events := s.events ++ [(s.events.length, .pingGive)], tmr := (semGive s).tmr } := by
  unfold semGive
  split <;> rfl

/-- ACKIN writes the in-flight record's `valid`, and for a Ping's ack the semaphore. -/
theorem acceptAck_frame (k : Ack) (s : State) :
    acceptAck k s = { s with tx := (acceptAck k s).tx, tmr := (acceptAck k s).tmr, events := (acceptAck k s).events } := by
  unfold acceptAck
  split
  · split
    · rw [semGive_frame]; rfl
    · rfl
  · rfl

/-- WD_SET writes the timers' fields only. -/
theorem wdSet_frame (d : Word) (s : State) : wdSet d s = { s with tmr := (wdSet d s).tmr } := by
  unfold wdSet
  split <;> rfl

/-- HB writes the receive half and the watchdog only. -/
theorem heartbeat_frame (d : Word) (s : State) : heartbeat d s = { s with rx := (heartbeat d s).rx, tmr := (heartbeat d s).tmr } := by
  unfold heartbeat
  split <;> rfl

/-- RESET_PATH writes the timers' fields only. -/
theorem resetPath_frame (a : Word) (s : State) : resetPath a s = { s with tmr := (resetPath a s).tmr } := by
  unfold resetPath
  split <;> rfl

/-- RESET_PATH, as one record. -/
theorem resetPath_eq (arg : Word) (s : State) : resetPath arg s = { s with
    tmr := if s.tmr.rstPending = false ∧ s.tmr.rstOut = false then
        { s.tmr with rstPending := true, rstRemaining := s.cfg.resetDelayTicks, rstArg := arg }
      else s.tmr } := by
  unfold resetPath resetIdle startReset
  cases h1 : s.tmr.rstPending <;> cases h2 : s.tmr.rstOut <;> simp [h2]

/-- WD_SET, as one record. -/
theorem wdSet_eq (data : Word) (s : State) :
    wdSet data s = { s with tmr := { s.tmr with wdArmed := decide (data ≠ 0), wdTimeout := data, wdRemaining := data } } := by
  unfold wdSet
  by_cases h : data = 0
  · subst h; rfl
  · rw [if_neg h, show decide (data ≠ 0) = true from decide_eq_true h]

/-- HB, as one record. -/
theorem heartbeat_eq (data : Word) (s : State) : heartbeat data s = { s with
    rx := { s.rx with hbValid := true, lastHb := data }
    tmr := { s.tmr with
      wdRemaining := if s.tmr.wdArmed = true ∧ (s.rx.hbValid = false ∨ data ≠ s.rx.lastHb) then s.tmr.wdTimeout else s.tmr.wdRemaining } } := by
  unfold heartbeat
  by_cases h : s.rx.hbValid = false ∨ data ≠ s.rx.lastHb
  · rw [if_pos h]
    cases ha : s.tmr.wdArmed
    · simp only [Bool.false_eq_true, false_and, if_false]
    · simp [h]
  · rw [if_neg h]
    simp only [h, and_false, if_false]
    simp only [not_or, Bool.not_eq_false, ne_eq, Decidable.not_not] at h
    rw [← h.1, h.2]

/-- SEM_GIVE, as one record. -/
theorem semGive_eq (s : State) : semGive s = { s with
    events := s.events ++ [(s.events.length, .pingGive)]
    tmr := if s.tmr.pingWait then { s.tmr with pingWait := false, pingResult := .alive, pingHasResult := true }
      else { s.tmr with sem := if s.tmr.sem.toNat + 1 ≤ s.cfg.semMax.toNat then s.tmr.sem + 1 else s.cfg.semMax } } := by
  unfold semGive
  cases h : s.tmr.pingWait <;> simp [h, State.emit, State.emitAll, numberEvents]

/-- The semaphore after it counts up. -/
theorem semGive_sem (s : State) (h : s.tmr.pingWait = false) :
    (semGive s).tmr.sem.toNat = min (s.tmr.sem.toNat + 1) s.cfg.semMax.toNat := by
  rw [semGive_eq]
  simp only [h, Bool.false_eq_true, if_false]
  by_cases hle : s.tmr.sem.toNat + 1 ≤ s.cfg.semMax.toNat
  · have := s.cfg.semMax.isLt
    rw [if_pos hle, Nat.min_eq_left hle, BitVec.toNat_add, Nat.mod_eq_of_lt]
    · rfl
    · simp; omega
  · rw [if_neg hle, Nat.min_eq_right (by omega)]

/-- When an ack matches. -/
theorem ackMatches_iff (k : Ack) (s : State) :
    ackMatches k s = true ↔ s.tx.inflight.valid = true ∧ k.id = s.tx.inflight.kind ∧ k.seq = s.tx.inflight.seq := by
  simp [ackMatches, and_assoc]

/-- When a record is a duplicate. -/
theorem isDuplicate_iff (m : Record) (s : State) : isDuplicate m s = true ↔ s.rx.lastSeqValid = true ∧ m.seq = s.rx.lastSeq := by
  simp [isDuplicate]

/-- A new record is no duplicate. -/
theorem isDuplicate_false (m : Record) (s : State) (h : isNew s m.seq) : isDuplicate m s = false := by
  unfold isDuplicate isNew at *
  rcases h with h | h <;> simp [h]

/-- The duplicate log, as one record. -/
theorem logDuplicate_eq (seq : Byte) (s : State) : logDuplicate seq s = { s with
    rx := { s.rx with dupLogValid := true, dupLogSeq := seq }
    events := s.events ++ if s.rx.dupLogValid = true ∧ s.rx.dupLogSeq = seq then [] else [(s.events.length, .dupLog seq)] } := by
  unfold logDuplicate
  by_cases h : s.rx.dupLogValid = true ∧ s.rx.dupLogSeq = seq
  · rw [if_pos h, if_pos h, List.append_nil]
    obtain ⟨h1, h2⟩ := h
    rw [← h1, ← h2]
  · rw [if_neg h, if_neg h]; rfl

/-- A kind's own effect writes the receive half and the timers only. -/
theorem ownEffect_frame (ids : KindIds) (id : Byte) (d : Word) (s : State) :
    ownEffect ids id d s = { s with rx := (ownEffect ids id d s).rx, tmr := (ownEffect ids id d s).tmr } := by
  unfold ownEffect
  split
  · rw [resetPath_frame]
  · split
    · rw [wdSet_frame]
    · split
      · rw [heartbeat_frame]
      · rfl

/-- KIND_EFFECT writes the receive half, the timers and the events only. -/
theorem kindEffect_frame (id : Byte) (d : Word) (s : State) :
    kindEffect id d s = { s with rx := (kindEffect id d s).rx, tmr := (kindEffect id d s).tmr, events := (kindEffect id d s).events } := by
  unfold kindEffect
  split
  · rfl
  · rw [ownEffect_frame]; rfl

/-- The receipt of a record writes the receive half, the timers, the events and the outcome only. -/
theorem receive_frame (m : Record) (s : State) :
    receive m s = { s with rx := (receive m s).rx, tmr := (receive m s).tmr, events := (receive m s).events, out := (receive m s).out } := by
  unfold receive logDuplicate
  split
  · rfl
  · dsimp only
    split
    · split <;> rfl
    · rw [kindEffect_frame]; rfl

/-- The receipt of a duplicate. -/
theorem receive_duplicate (m : Record) (s : State) (h0 : m.id ≠ 0) (h : isDuplicate m s = true) : receive m s = { s with
    rx := { s.rx with dupLogValid := true, dupLogSeq := m.seq }
    events := s.events ++ ((s.events.length, .ackOut m.id m.seq) ::
      if s.rx.dupLogValid = true ∧ s.rx.dupLogSeq = m.seq then [] else [(s.events.length + 1, .dupLog m.seq)])
    out := some (.transport, .result (.ack ⟨m.id, m.seq⟩)) } := by
  unfold receive
  rw [if_neg h0]
  simp only [h, if_true, logDuplicate_eq]
  simp [State.finish, State.emit, State.emitAll, numberEvents, recordAck]

/-- The receipt of a new record of a known kind: the ack, the data storage, the kind's own effect. -/
theorem receive_new (m : Record) (s : State) (h0 : m.id ≠ 0) (hk : m.id.toNat < s.cfg.kindCount) (h : isDuplicate m s = false) :
    receive m s = (ownEffect s.cfg.kindId m.id m.data { s with
      rx := { s.rx with lastSeq := m.seq, lastSeqValid := true, dupLogValid := false, value := vset s.rx.value m.id.toNat m.data }
      events := s.events ++ [(s.events.length, .ackOut m.id m.seq), (s.events.length + 1, .kindUpdate m.id m.data)] }).finish
        .transport (.ack ⟨m.id, m.seq⟩) := by
  unfold receive
  rw [if_neg h0]
  simp only [h, Bool.false_eq_true, if_false, kindEffect]
  rw [if_neg (by simpa [acceptSeq] using hk)]
  simp [storeKind, acceptSeq, State.emit, State.emitAll, numberEvents, recordAck]

/-- The receipt of a new record of an unknown kind: the ack and the sequence number only. -/
theorem receive_unknown (m : Record) (s : State) (h0 : m.id ≠ 0) (hk : s.cfg.kindCount ≤ m.id.toNat) (h : isDuplicate m s = false) :
    receive m s = { s with
      rx := { s.rx with lastSeq := m.seq, lastSeqValid := true, dupLogValid := false }
      events := s.events ++ [(s.events.length, .ackOut m.id m.seq)]
      out := some (.transport, .result (.ack ⟨m.id, m.seq⟩)) } := by
  unfold receive
  rw [if_neg h0]
  simp only [h, Bool.false_eq_true, if_false, kindEffect]
  rw [if_pos (by simpa [acceptSeq] using hk)]
  simp [acceptSeq, State.emit, State.emitAll, numberEvents, recordAck, State.finish]

/-- A counter's next value is 0 exactly when it is 1. -/
theorem counter_ends (x : Word) : x - 1 = 0 ↔ x = 1 := by
  constructor
  · intro h
    have : x - 1 + 1 = 0 + 1 := by rw [h]
    simpa using this
  · rintro rfl; rfl

/-- RST_TICK, as one record. -/
theorem rstTick_eq (s : State) : rstTick s = { s with
    tmr := { s.tmr with
      rstRemaining := s.tmr.rstRemaining - 1
      rstPending := if s.tmr.rstRemaining = 1 then false else s.tmr.rstPending
      rstOut := if s.tmr.rstRemaining = 1 then true else s.tmr.rstOut }
    events := s.events ++ if s.tmr.rstRemaining = 1 then [(s.events.length, .resetOut s.tmr.rstArg)] else [] } := by
  unfold rstTick
  simp only [counter_ends]
  split
  · rfl
  · simp

/-- WD_TICK, as one record. -/
theorem wdTick_eq (free : Bool) (s : State) : wdTick free s = { s with
    tmr := { s.tmr with
      wdRemaining := s.tmr.wdRemaining - 1
      wdArmed := if s.tmr.wdRemaining = 1 then false else s.tmr.wdArmed
      rstPending := if s.tmr.wdRemaining = 1 ∧ free = true then true else s.tmr.rstPending
      rstRemaining := if s.tmr.wdRemaining = 1 ∧ free = true then s.cfg.resetDelayTicks else s.tmr.rstRemaining
      rstArg := if s.tmr.wdRemaining = 1 ∧ free = true then s.cfg.wdResetArg else s.tmr.rstArg } } := by
  unfold wdTick
  simp only [counter_ends]
  by_cases h : s.tmr.wdRemaining = 1
  · simp only [h, true_and, if_true]
    cases free <;> rfl
  · simp only [h, false_and, if_false]

/-- PING_TICK, as one record. -/
theorem pingTick_eq (s : State) : pingTick s = { s with
    tmr := { s.tmr with
      pingRemaining := s.tmr.pingRemaining - 1
      pingWait := if s.tmr.pingRemaining = 1 then false else s.tmr.pingWait
      pingResult := if s.tmr.pingRemaining = 1 then .timeout else s.tmr.pingResult
      pingHasResult := if s.tmr.pingRemaining = 1 then true else s.tmr.pingHasResult } } := by
  unfold pingTick
  simp only [counter_ends]
  split
  · rfl
  · rfl

/-- RST_TICK writes the timers' fields and the events only. -/
theorem rstTick_frame (s : State) : rstTick s = { s with tmr := (rstTick s).tmr, events := (rstTick s).events } := by
  unfold rstTick
  dsimp only
  split <;> rfl

/-- WD_TICK writes the timers' fields only. -/
theorem wdTick_frame (b : Bool) (s : State) : wdTick b s = { s with tmr := (wdTick b s).tmr } := by
  unfold wdTick
  dsimp only
  split
  · split <;> rfl
  · rfl

/-- PING_TICK writes the timers' fields only. -/
theorem pingTick_frame (s : State) : pingTick s = { s with tmr := (pingTick s).tmr } := by
  unfold pingTick
  dsimp only
  split <;> rfl

/-- An update that is made only sometimes writes the same fields. -/
theorem ite_tmr_events (b : Bool) (s t : State) (h : t = { s with tmr := t.tmr, events := t.events }) :
    (if b then t else s) = { s with tmr := (if b then t else s).tmr, events := (if b then t else s).events } := by
  cases b
  · rfl
  · exact h

/-- A TICK writes the timers and the events only. -/
theorem tickTimers_frame (s : State) : tickTimers s = { s with tmr := (tickTimers s).tmr, events := (tickTimers s).events } := by
  have h1 := ite_tmr_events s.tmr.rstPending s (rstTick s) (rstTick_frame s)
  generalize h1e : (if s.tmr.rstPending then rstTick s else s) = s1 at h1
  have h2 := ite_tmr_events s.tmr.wdArmed s1 (wdTick (resetIdle s) s1) (by rw [wdTick_frame])
  generalize h2e : (if s.tmr.wdArmed then wdTick (resetIdle s) s1 else s1) = s2 at h2
  have h3 := ite_tmr_events s.tmr.pingWait s2 (pingTick s2) (by rw [pingTick_frame])
  have he : tickTimers s = if s.tmr.pingWait then pingTick s2 else s2 := by
    rw [← h2e, ← h1e]; rfl
  rw [← he] at h3
  rw [h2, h1] at h3
  exact h3

/-! ## Init gate and NOC engine -/

/-- The init steps write the gate, the external state and the events only. -/
theorem initSteps_frame (n i : Nat) (s : State) :
    initSteps i n s = { s with gate := (initSteps i n s).gate, ext := (initSteps i n s).ext, events := (initSteps i n s).events } := by
  induction n generalizing i s with
  | zero => rfl
  | succ n ih =>
    unfold initSteps
    dsimp only
    split
    · rw [ih]; rfl
    · rfl

theorem note_frame (f : FaultRec) (s : State) : s.note f = { s with fault := (s.note f).fault } := rfl

theorem foldl_note_frame (op : Byte) (cs : List TileClass) (s : State) :
    cs.foldl (fun s c => s.note ⟨.precond, op, classInfo c⟩) s
      = { s with fault := (cs.foldl (fun s c => s.note ⟨.precond, op, classInfo c⟩) s).fault } := by
  induction cs generalizing s with
  | nil => rfl
  | cons c cs ih => rw [List.foldl_cons, ih]; rfl

/-- COMPUTE writes the tables, the violation flag, the fault set and the number of draws only. -/
theorem computeTables_frame (op : Byte) (s : State) :
    computeTables op s = { s with noc := (computeTables op s).noc, fault := (computeTables op s).fault, draws := (computeTables op s).draws } := by
  unfold computeTables
  dsimp only
  rw [foldl_note_frame]

/-- DEBUGNOC writes the NOC engine, the fault set, the number of draws and the events only. -/
theorem debugNoc_frame (d : DbgNoc) (s : State) :
    (debugNoc d s).2 = { s with noc := (debugNoc d s).2.noc, fault := (debugNoc d s).2.fault, draws := (debugNoc d s).2.draws,
                                events := (debugNoc d s).2.events } := by
  unfold debugNoc
  split
  · rfl
  · split
    · rfl
    · simp only [programNodes, State.emitAll]
      rw [computeTables_frame]
      rfl

/-! ## The next input -/

/-- LOOP's turn is its next transaction or nothing. -/
theorem takeTurn_cases (s : State) :
    (takeTurn s = .loopGoes s ∧ loopReady s = true) ∨ (takeTurn s = .quiet s ∧ loopReady s = false) := by
  unfold takeTurn
  cases h : loopReady s
  · exact .inr ⟨rfl, rfl⟩
  · exact .inl ⟨rfl, rfl⟩

/-- What taking an input can be: `world` sets the external state, the others leave the state alone. -/
theorem takeNow_cases (i : Input) (s : State) :
    (∃ a bytes, i = .port a bytes ∧ takeNow i s = .port a bytes s) ∨ (i = .reset ∧ takeNow i s = .reset s)
      ∨ (i = .turn ∧ takeNow i s = .loopGoes s ∧ loopReady s = true) ∨ (∃ g, takeNow i s = .quiet { s with ext := g }) := by
  cases i with
  | port a b => exact .inl ⟨a, b, rfl, rfl⟩
  | reset => exact .inr (.inl ⟨rfl, rfl⟩)
  | turn =>
    rcases takeTurn_cases s with h | h
    · exact .inr (.inr (.inl ⟨rfl, h⟩))
    · exact .inr (.inr (.inr ⟨s.ext, h.1⟩))
  | world g => exact .inr (.inr (.inr ⟨g, rfl⟩))

/-- The input that is picked while LOOP holds is no operation of LOOP. -/
theorem pickOther_spec (l rest : List Input) (i : Input) (h : pickOther l = some (i, rest)) : isLoopPort i = false := by
  induction l generalizing rest with
  | nil => simp [pickOther] at h
  | cons x l ih =>
    simp only [pickOther] at h
    split at h
    · obtain ⟨p, hp, he⟩ := Option.map_eq_some_iff.mp h
      obtain ⟨j, r⟩ := p
      simp only [Prod.mk.injEq] at he
      obtain ⟨rfl, _⟩ := he
      exact ih r hp
    · rename_i hx
      simp only [Option.some.injEq, Prod.mk.injEq] at h
      rw [← h.1]
      simpa using hx

/-- LOOP is ready exactly when it has a place and does not hold. -/
theorem loopReady_iff (s : State) : loopReady s = true ↔ s.loop ≠ .idle ∧ held s = false := by
  simp [loopReady]

/-- What the next step is: nothing, LOOP's own next transaction, an agent's operation or a RESET; all but the inbox and, where the world sets it, the external state is as before. -/
theorem takeInput_cases (s : State) :
    (∃ ib g, takeInput s = .quiet { s with inbox := ib, ext := g })
      ∨ (∃ ib, takeInput s = .loopGoes { s with inbox := ib } ∧ loopReady s = true)
      ∨ (∃ ib a bytes, takeInput s = .port a bytes { s with inbox := ib } ∧ (a = .loop → s.loop = .idle))
      ∨ ∃ ib, takeInput s = .reset { s with inbox := ib } := by
  have now : ∀ (i : Input) (ib : List Input), (isLoopPort i = true → s.loop = .idle) →
      (∃ ib' g, takeNow i { s with inbox := ib } = .quiet { s with inbox := ib', ext := g })
        ∨ (∃ ib', takeNow i { s with inbox := ib } = .loopGoes { s with inbox := ib' } ∧ loopReady s = true)
        ∨ (∃ ib' a bytes, takeNow i { s with inbox := ib } = .port a bytes { s with inbox := ib' } ∧ (a = .loop → s.loop = .idle))
        ∨ ∃ ib', takeNow i { s with inbox := ib } = .reset { s with inbox := ib' } := by
    intro i ib hi
    rcases takeNow_cases i { s with inbox := ib } with ⟨a, b, rfl, h⟩ | ⟨_, h⟩ | ⟨_, h, hr⟩ | ⟨g, h⟩
    · exact .inr (.inr (.inl ⟨ib, a, b, h, fun ha => hi (by subst ha; rfl)⟩))
    · exact .inr (.inr (.inr ⟨ib, h⟩))
    · exact .inr (.inl ⟨ib, h, hr⟩)
    · exact .inl ⟨ib, g, h⟩
  unfold takeInput
  cases hh : held s with
  | true =>
    simp only [if_true]
    cases hp : pickOther s.inbox with
    | none => exact .inl ⟨s.inbox, s.ext, rfl⟩
    | some p => exact now p.1 p.2 (fun h => by rw [pickOther_spec _ _ _ hp] at h; cases h)
  | false =>
    simp only [Bool.false_eq_true, if_false]
    cases hi : s.inbox with
    | nil =>
      have hs : s = { s with inbox := [] } := by rw [← hi]
      rcases takeTurn_cases s with h | h
      · exact .inr (.inl ⟨[], by dsimp only; rw [h.1, ← hs], h.2⟩)
      · exact .inl ⟨[], s.ext, by dsimp only; rw [h.1, ← hs]⟩
    | cons i rest =>
      dsimp only
      by_cases hl : (loopReady s && isLoopPort i) = true
      · rw [if_pos hl]
        exact .inr (.inl ⟨s.inbox, rfl, by simp only [Bool.and_eq_true] at hl; exact hl.1⟩)
      · rw [if_neg hl]
        refine now i rest (fun hp => ?_)
        by_contra hne
        exact hl (by rw [(loopReady_iff s).mpr ⟨hne, hh⟩, hp]; rfl)

/-- While LOOP does not hold, another agent's input at the head of the inbox is the one taken, whatever LOOP's place. -/
theorem takeInput_head (s : State) (i : Input) (rest : List Input) (hh : held s = false) (hi : isLoopPort i = false)
    (h : s.inbox = i :: rest) : takeInput s = takeNow i { s with inbox := rest } := by
  simp [takeInput, hh, h, hi]

end Sys2Proof.Machine
end

