-- ==== Sys2Proof/Laws/PerInstr.lean ====
section
/-! SUPPORT. Facts about every instruction as syntax, one lemma per constructor. -/

namespace Sys2Proof.Laws

/-- An encoded instruction is as long as its format says: a port operation by its selector, a request 32 bytes, a record 6 (30_encoding.md R110). -/
def EncodedLength.Statement (i : Instr) : Prop :=
  ∀ ids : KindIds, (encode ids i).length = match sourceOf i with
    | .port _ => portLength ((encode ids i).getD 0 0)
    | .request _ => 32
    | .record => 6

theorem EncodedLength.push (a : Agent) (q : Byte) (e : Entry) : EncodedLength.Statement (.push a q e) := fun _ => rfl
theorem EncodedLength.pop (a : Agent) (q : Byte) : EncodedLength.Statement (.pop a q) := fun _ => rfl
theorem EncodedLength.stat (a : Agent) (v : StatView) : EncodedLength.Statement (.stat a v) := by
  intro ids
  cases v <;> rfl
theorem EncodedLength.reg (a : Agent) (t : Byte) (h : HandlerName) : EncodedLength.Statement (.reg a t h) := fun _ => rfl
theorem EncodedLength.start (a : Agent) : EncodedLength.Statement (.start a) := fun _ => rfl
theorem EncodedLength.dpass (a : Agent) : EncodedLength.Statement (.dpass a) := fun _ => rfl
theorem EncodedLength.post (a : Agent) (k : Byte) (v : Word) : EncodedLength.Statement (.post a k v) := fun _ => rfl
theorem EncodedLength.poll (a : Agent) : EncodedLength.Statement (.poll a) := fun _ => rfl
theorem EncodedLength.readmsg (a : Agent) : EncodedLength.Statement (.readmsg a) := fun _ => rfl
theorem EncodedLength.ackin (a : Agent) (k : Ack) : EncodedLength.Statement (.ackin a k) := fun _ => rfl
theorem EncodedLength.msgin (a : Agent) (m : Record) : EncodedLength.Statement (.msgin a m) := fun _ => rfl
theorem EncodedLength.pingchk (a : Agent) : EncodedLength.Statement (.pingchk a) := fun _ => rfl
theorem EncodedLength.inittick (a : Agent) : EncodedLength.Statement (.inittick a) := fun _ => rfl
theorem EncodedLength.tick (a : Agent) : EncodedLength.Statement (.tick a) := fun _ => rfl
theorem EncodedLength.setharv (a : Agent) (tb : Half) (g : Byte) (se : Half) (eb : Half) (pe : Byte) : EncodedLength.Statement (.setharv a tb g se eb pe) := fun _ => rfl
theorem EncodedLength.compute (a : Agent) : EncodedLength.Statement (.compute a) := fun _ => rfl
theorem EncodedLength.program (a : Agent) : EncodedLength.Statement (.program a) := fun _ => rfl
theorem EncodedLength.clear (a : Agent) : EncodedLength.Statement (.clear a) := fun _ => rfl
theorem EncodedLength.setVoltage (c : Fin 4) (p : Payload) : EncodedLength.Statement (.setVoltage c p) := fun _ => rfl
theorem EncodedLength.powerSetting (c : Fin 4) (p : Payload) : EncodedLength.Statement (.powerSetting c p) := fun _ => rfl
theorem EncodedLength.triggerReset (c : Fin 4) (p : Payload) : EncodedLength.Statement (.triggerReset c p) := fun _ => rfl
theorem EncodedLength.forceFanSpeed (c : Fin 4) (p : Payload) : EncodedLength.Statement (.forceFanSpeed c p) := fun _ => rfl
theorem EncodedLength.pingDM (c : Fin 4) (p : Payload) : EncodedLength.Statement (.pingDM c p) := fun _ => rfl
theorem EncodedLength.debugNocTranslation (c : Fin 4) (p : Payload) : EncodedLength.Statement (.debugNocTranslation c p) := fun _ => rfl
theorem EncodedLength.nullMsg (seq : Byte) (data : Word) : EncodedLength.Statement (.nullMsg seq data) := fun _ => rfl
theorem EncodedLength.resetReq (seq : Byte) (data : Word) : EncodedLength.Statement (.resetReq seq data) := fun _ => rfl
theorem EncodedLength.ping (seq : Byte) (data : Word) : EncodedLength.Statement (.ping seq data) := fun _ => rfl
theorem EncodedLength.fanSpeedUpdate (seq : Byte) (data : Word) : EncodedLength.Statement (.fanSpeedUpdate seq data) := fun _ => rfl
theorem EncodedLength.ready (seq : Byte) (data : Word) : EncodedLength.Statement (.ready seq data) := fun _ => rfl
theorem EncodedLength.autoResetTimeoutUpdate (seq : Byte) (data : Word) : EncodedLength.Statement (.autoResetTimeoutUpdate seq data) := fun _ => rfl
theorem EncodedLength.heartbeatUpdate (seq : Byte) (data : Word) : EncodedLength.Statement (.heartbeatUpdate seq data) := fun _ => rfl
theorem EncodedLength.forcedFanSpeedUpdate (seq : Byte) (data : Word) : EncodedLength.Statement (.forcedFanSpeedUpdate seq data) := fun _ => rfl
theorem EncodedLength.pingV2 (seq : Byte) (data : Word) : EncodedLength.Statement (.pingV2 seq data) := fun _ => rfl

end Sys2Proof.Laws
end

