-- ==== Sys2Proof/Laws/Xlat.lean ====
section
/-! SUPPORT. What each update of a translation table does to each of its readings, and what its loops leave alone. -/

namespace Sys2Proof.Machine

/-! ## One entry -/

/-- Reading `x_table` after a write of it. -/
theorem Table.xAt_setX (t : Table) (i v j : Nat) : (t.setX i v).xAt j = if j = i ∧ i < 32 then v % 256 else t.xAt j := by
  simp only [Table.xAt, Table.setX, vget_vset]
  split <;> simp

/-- Reading `y_table` after a write of it. -/
theorem Table.yAt_setY (t : Table) (i v j : Nat) : (t.setY i v).yAt j = if j = i ∧ i < 32 then v % 256 else t.yAt j := by
  simp only [Table.yAt, Table.setY, vget_vset]
  split <;> simp

/-- Reading the logical table after a write of it. -/
theorem Table.logicalAt_setLogical (t : Table) (x y u v : Nat) (l : Half) :
    (t.setLogical x y l).logicalAt u v = if u = x ∧ v = y ∧ x < 17 ∧ y < 12 then l else t.logicalAt u v := by
  simp only [Table.logicalAt, Table.setLogical, vget_vset]
  by_cases hu : u = x ∧ x < 17
  · obtain ⟨rfl, hx⟩ := hu
    simp only [hx, and_true, if_true, vget_vset, true_and]
  · rw [if_neg hu, if_neg (fun h => hu ⟨h.1, h.2.2.1⟩)]

@[simp] theorem Table.yAt_setX (t : Table) (i v j : Nat) : (t.setX i v).yAt j = t.yAt j := rfl
@[simp] theorem Table.xAt_setY (t : Table) (i v j : Nat) : (t.setY i v).xAt j = t.xAt j := rfl
@[simp] theorem Table.xAt_setLogical (t : Table) (x y j : Nat) (l : Half) : (t.setLogical x y l).xAt j = t.xAt j := rfl
@[simp] theorem Table.yAt_setLogical (t : Table) (x y j : Nat) (l : Half) : (t.setLogical x y l).yAt j = t.yAt j := rfl
@[simp] theorem Table.logicalAt_setX (t : Table) (i v x y : Nat) : (t.setX i v).logicalAt x y = t.logicalAt x y := rfl
@[simp] theorem Table.logicalAt_setY (t : Table) (i v x y : Nat) : (t.setY i v).logicalAt x y = t.logicalAt x y := rfl

/-- The identity's `x_table`. -/
theorem identityTable_xAt (i : Nat) (h : i < 32) : identityTable.xAt i = i := by
  simp only [Table.xAt, identityTable, vget_vgen, h, if_true, BitVec.toNat_ofNat]
  omega

/-- The identity's `y_table`. -/
theorem identityTable_yAt (i : Nat) (h : i < 32) : identityTable.yAt i = i := by
  simp only [Table.yAt, identityTable, vget_vgen, h, if_true, BitVec.toNat_ofNat]
  omega

/-- The identity's logical table. -/
theorem identityTable_logicalAt (x y : Nat) (hx : x < 17) (hy : y < 12) : identityTable.logicalAt x y = packCoord x y := by
  simp only [Table.logicalAt, identityTable, vget_vgen, hx, hy, if_true]

/-! ## Loops -/

/-- A loop over updates keeps whatever each update keeps. -/
theorem foldl_keeps {α β γ : Type} (f : α → β → α) (view : α → γ) (l : List β) (a : α)
    (h : ∀ a, ∀ b ∈ l, view (f a b) = view a) : view (l.foldl f a) = view a := by
  induction l generalizing a with
  | nil => rfl
  | cons b l ih =>
    rw [List.foldl_cons, ih _ (fun a b' hb' => h a b' (List.mem_cons_of_mem _ hb')), h a b List.mem_cons_self]

/-- TENSIX_X writes compute columns of `x_table` only. -/
theorem tensixX_xAt_other (bad : Half) (t : Table) (i : Nat) (h : i ∉ tensixCols) : (tensixX bad t).xAt i = t.xAt i := by
  unfold tensixX
  refine foldl_keeps _ (fun t => t.xAt i) _ t (fun a p hp => ?_)
  have : i ≠ p.1 := fun e => h (e ▸ (List.of_mem_zip hp).1)
  simp [Table.xAt_setX, this]

@[simp] theorem tensixX_yAt (bad : Half) (t : Table) (i : Nat) : (tensixX bad t).yAt i = t.yAt i := by
  unfold tensixX
  refine foldl_keeps _ (fun t => t.yAt i) _ t (fun a p _ => ?_)
  exact Table.yAt_setX a p.1 p.2 i

@[simp] theorem tensixX_logicalAt (bad : Half) (t : Table) (x y : Nat) : (tensixX bad t).logicalAt x y = t.logicalAt x y := by
  unfold tensixX
  refine foldl_keeps _ (fun t => t.logicalAt x y) _ t (fun a p _ => ?_)
  exact Table.logicalAt_setX a p.1 p.2 x y

@[simp] theorem dramY_xAt (geo : Geometry) (bad : Option Nat) (t : Table) (i : Nat) : (dramY geo bad t).xAt i = t.xAt i := by
  unfold dramY
  exact foldl_keeps _ (fun t => t.xAt i) _ t (fun a _ _ => foldl_keeps _ (fun t => t.xAt i) _ a (fun a _ _ => Table.xAt_setY a _ _ i))

@[simp] theorem dramY_logicalAt (geo : Geometry) (bad : Option Nat) (t : Table) (x y : Nat) :
    (dramY geo bad t).logicalAt x y = t.logicalAt x y := by
  unfold dramY
  exact foldl_keeps _ (fun t => t.logicalAt x y) _ t (fun a _ _ =>
    foldl_keeps _ (fun t => t.logicalAt x y) _ a (fun a _ _ => Table.logicalAt_setY a _ _ x y))

/-- DRAM_XY writes the two DRAM columns of `x_table` only. -/
theorem dramXY_xAt_other (geo : Geometry) (g : Byte) (t : Table) (i : Nat) (hw : i ≠ geo.dramPreXW) (he : i ≠ geo.dramPreXE) :
    (dramXY geo g t).xAt i = t.xAt i := by
  unfold dramXY
  simp only [dramY_xAt]
  split <;> simp [Table.xAt_setX, hw, he]

@[simp] theorem dramXY_logicalAt (geo : Geometry) (g : Byte) (t : Table) (x y : Nat) :
    (dramXY geo g t).logicalAt x y = t.logicalAt x y := by
  unfold dramXY
  simp only [dramY_logicalAt]
  split <;> rfl

/-- ETH_X writes Ethernet slots of `x_table` only. -/
theorem ethXY_xAt_other (geo : Geometry) (skip : Half) (t : Table) (i : Nat) (h : ∀ j, j < geo.ethSlots → i ≠ geo.ethPreX0 + j) :
    (ethXY geo skip t).xAt i = t.xAt i := by
  unfold ethXY
  simp only [Table.xAt_setY]
  refine foldl_keeps _ (fun t => t.xAt i) _ t (fun a j hj => ?_)
  have := h j (by have := List.mem_range.mp hj; omega)
  simp [Table.xAt_setX, this]

/-- ETH_X writes one entry of `y_table`. -/
theorem ethXY_yAt_other (geo : Geometry) (skip : Half) (t : Table) (i : Nat) (h : i ≠ geo.ethPreY) :
    (ethXY geo skip t).yAt i = t.yAt i := by
  unfold ethXY
  rw [Table.yAt_setY, if_neg (fun e => h e.1)]
  exact foldl_keeps _ (fun t => t.yAt i) _ t (fun a _ _ => Table.yAt_setX a _ _ i)

@[simp] theorem ethXY_logicalAt (geo : Geometry) (skip : Half) (t : Table) (x y : Nat) :
    (ethXY geo skip t).logicalAt x y = t.logicalAt x y := by
  unfold ethXY
  rw [Table.logicalAt_setY]
  exact foldl_keeps _ (fun t => t.logicalAt x y) _ t (fun a _ _ => Table.logicalAt_setX a _ _ x y)

/-- A box's sweep writes the logical table only. -/
theorem sweepBox_xAt (b : Box) (t : Table) (i : Nat) : (sweepBox b t).xAt i = t.xAt i :=
  foldl_keeps _ (fun t => t.xAt i) _ t (fun a _ _ => foldl_keeps _ (fun t => t.xAt i) _ a (fun a _ _ => by
    unfold sweepAt; split <;> rfl))

theorem sweepBox_yAt (b : Box) (t : Table) (i : Nat) : (sweepBox b t).yAt i = t.yAt i :=
  foldl_keeps _ (fun t => t.yAt i) _ t (fun a _ _ => foldl_keeps _ (fun t => t.yAt i) _ a (fun a _ _ => by
    unfold sweepAt; split <;> rfl))

/-- SWEEP writes the logical table only. -/
@[simp] theorem sweep_xAt (geo : Geometry) (t : Table) (i : Nat) : (sweep geo t).xAt i = t.xAt i :=
  foldl_keeps _ (fun t => t.xAt i) _ t (fun a b _ => sweepBox_xAt b a i)

@[simp] theorem sweep_yAt (geo : Geometry) (t : Table) (i : Nat) : (sweep geo t).yAt i = t.yAt i :=
  foldl_keeps _ (fun t => t.yAt i) _ t (fun a b _ => sweepBox_yAt b a i)

/-- A fixed mapping writes one entry of each axis. -/
theorem fixNode_xAt (n : FixedNode) (t : Table) (i : Nat) :
    (fixNode n t).xAt i = if i = n.preX ∧ n.preX < 32 then n.physX % 256 else t.xAt i := by
  simp [fixNode, Table.xAt_setX]

theorem fixNode_yAt (n : FixedNode) (t : Table) (i : Nat) :
    (fixNode n t).yAt i = if i = n.preY ∧ n.preY < 32 then n.physY % 256 else t.yAt i := by
  simp [fixNode, Table.yAt_setY]

/-- A fixed mapping writes its node's logical entry. -/
theorem fixNode_logicalAt (n : FixedNode) (t : Table) (x y : Nat) :
    (fixNode n t).logicalAt x y
      = if x = n.physX ∧ y = n.physY ∧ n.physX < 17 ∧ n.physY < 12 then packCoord n.preX n.preY else t.logicalAt x y := by
  simp [fixNode, Table.logicalAt_setLogical]

/-- FIXED leaves an axis index alone that neither PCIe nor a fixed node uses. -/
theorem fixedMappings_xAt_other (geo : Geometry) (nodes : List FixedNode) (h : Harvest) (t : Table) (i : Nat)
    (hp : i ≠ geo.pciePreX) (hn : i ∉ nodes.map FixedNode.preX) : (fixedMappings geo nodes h t).xAt i = t.xAt i := by
  unfold fixedMappings
  refine (foldl_keeps (fun t n => fixNode n t) (fun t => t.xAt i) nodes _ (fun a n hmem => ?_)).trans ?_
  · rw [fixNode_xAt, if_neg (fun e => hn (List.mem_map.mpr ⟨n, hmem, e.1.symm⟩))]
  · rw [fixNode_xAt, if_neg (fun e => hp e.1)]

theorem fixedMappings_yAt_other (geo : Geometry) (nodes : List FixedNode) (h : Harvest) (t : Table) (i : Nat)
    (hp : i ≠ geo.pciePreY) (hn : i ∉ nodes.map FixedNode.preY) : (fixedMappings geo nodes h t).yAt i = t.yAt i := by
  unfold fixedMappings
  refine (foldl_keeps (fun t n => fixNode n t) (fun t => t.yAt i) nodes _ (fun a n hmem => ?_)).trans ?_
  · rw [fixNode_yAt, if_neg (fun e => hn (List.mem_map.mpr ⟨n, hmem, e.1.symm⟩))]
  · rw [fixNode_yAt, if_neg (fun e => hp e.1)]

/-- COMPUTE's ring 0 reads, but for the masks and the enable, as its mappings leave it. -/
theorem computedTable_xAt (geo : Geometry) (nodes : List FixedNode) (h : Harvest) (i : Nat) :
    (computedTable geo nodes h).xAt i
      = (fixedMappings geo nodes h (sweep geo (ethXY geo h.skipEth (dramXY geo h.gddrBad (tensixX h.tensixBad identityTable))))).xAt i := rfl

theorem computedTable_yAt (geo : Geometry) (nodes : List FixedNode) (h : Harvest) (i : Nat) :
    (computedTable geo nodes h).yAt i
      = (fixedMappings geo nodes h (sweep geo (ethXY geo h.skipEth (dramXY geo h.gddrBad (tensixX h.tensixBad identityTable))))).yAt i := rfl

theorem computedTable_logicalAt (geo : Geometry) (nodes : List FixedNode) (h : Harvest) (x y : Nat) :
    (computedTable geo nodes h).logicalAt x y
      = (fixedMappings geo nodes h (sweep geo (ethXY geo h.skipEth (dramXY geo h.gddrBad (tensixX h.tensixBad identityTable))))).logicalAt x y := rfl

end Sys2Proof.Machine
end

