-- ==== Sys2Proof/Tests/Slice0.lean ====
section
/-! SUPPORT. Tests. Expected results come from the spec: the vectors of 95_test_vectors.md (named in each docstring), its encodings (30_encoding.md), or hand calculation from the rule named. The `wit` theorems show that the hypotheses of the statements can be met. -/

namespace Sys2Proof.Tests

open Sys2Proof Sys2Proof.Machine

set_option Elab.async false

/-! ## Small states -/

/-- A view of the next state, or nothing where the outcome is no next state. -/
def look {α : Type} (o : Host.Outcome State Fault Refusal) (f : State → α) : Option α :=
  match o with
  | .next t => some (f t)
  | _ => none

/-- Reset with capacity `c` and every queue's pointers at `wp`, `rp`. -/
def queues (c wp rp : Nat) : State :=
  { State.powerOn { Params.reference with queueCapacity := c } with rmq := Vector.replicate 8 ⟨wp, rp⟩ }

/-- An entry of 95_test_vectors.md section 1.1. -/
def echoReq : Entry := ⟨0x73737373, 0, 0, 0, 0, 0, 0, 0⟩

/-- Those queues, with the entry `e` in the slot that queue `q` pops next. -/
def holding (c wp rp : Nat) (q : Fin 8) (e : Entry) : State := { queues c wp rp with mem := memWrite [] q (rp % c) e }

/-- RUN, with handler `h` registered for `t`. -/
def serving (t : Byte) (h : HandlerName) (s : State) : State := { s with disp := ⟨vset s.disp.table t.toNat (some h), .run⟩ }

/-- RUN, with nothing registered. -/
def running (s : State) : State := { s with disp := { s.disp with phase := .run } }

/-- A message in flight. -/
def flying (k q : Byte) (d : Word) (s : State) : State := { s with tx := { s.tx with inflight := ⟨true, k, q, d⟩, seq := q } }

/-- The harvest registers loaded. -/
def harvested (tb : Half) (g : Byte) (se : Half) (pe : Byte) : State :=
  { State.reset with noc := { State.reset.noc with harvValid := true, harv := ⟨tb, g, se, 0, pe, false, false⟩ } }

/-- One input offered. -/
def offered (i : Input) (s : State) : State := { s with inbox := [i] }

/-- The timers set. -/
def timed (t : Tmr) : State := { State.reset with tmr := t }

/-- Nothing armed, nothing pending. -/
def calm : Tmr := ⟨false, 0, 0, false, 0, 0, false, 0, false, 0, .timeout, false⟩

/-! ## WellFormed: an ill-formed term for each check -/

/-- R124: queue index 8 is refused in PUSH, POP and QSTAT, index 7 is not; a wire name of a built-in handler is no external id. -/
theorem test_operands_wellFormed :
    (Instr.push .loop 7 echoReq).wellFormed = true ∧ (Instr.push .loop 8 echoReq).wellFormed = false
      ∧ (Instr.pop .loop 8).wellFormed = false ∧ (Instr.stat .loop (.qstat 8)).wellFormed = false
      ∧ (Instr.reg .loop 0 (.external 2)).wellFormed = true ∧ (Instr.reg .loop 0 (.external 1)).wellFormed = false := by decide +kernel

/-- R10: the reference parameters are admitted. -/
theorem test_reference_wf : Params.reference.wf = true := by decide +kernel

/-- R10: each constraint on a number, broken alone. -/
theorem test_params_refused :
    { Params.reference with queueCapacity := 0 }.wf = false ∧ { Params.reference with kindCount := 8 }.wf = false
      ∧ { Params.reference with kindId := { KindIds.reference with ping := 1 } }.wf = false
      ∧ { Params.reference with kindId := { KindIds.reference with ping := 0 } }.wf = false
      ∧ { Params.reference with kindId := { KindIds.reference with ping := 9 } }.wf = false
      ∧ { Params.reference with tickPeriodMs := 0 }.wf = false ∧ { Params.reference with resetDelayTicks := 0 }.wf = false
      ∧ { Params.reference with pingTimeoutTicks := 0 }.wf = false ∧ { Params.reference with semMax := 0 }.wf = false
      ∧ { Params.reference with gddrNone := 7 }.wf = false ∧ { Params.reference with errBadGddr := 0 }.wf = false
      ∧ { Params.reference with geo := { Geometry.reference with nGddr := 7 } }.wf = false
      ∧ { Params.reference with fixedNodes := [⟨32, 0, 0, 0⟩] }.wf = false := by decide +kernel

/-- 43_noc.md R271: each constraint on the geometry, broken alone. -/
theorem test_geometry_refused :
    { Geometry.reference with nGddr := 6 }.wf = false ∧ { Geometry.reference with gddrRowsPer := 4 }.wf = false
      ∧ { Geometry.reference with ethX := List.replicate 17 1 }.wf = false
      ∧ { Geometry.reference with tensixRows := [3, 2] }.wf = false
      ∧ { Geometry.reference with dramPreXW := 32 }.wf = false ∧ { Geometry.reference with pciePreY := 32 }.wf = false
      ∧ { Geometry.reference with mgmtCol := 17 }.wf = false ∧ { Geometry.reference with ethRow := 12 }.wf = false
      ∧ { Geometry.reference with dramPreXE := 17 }.wf = false ∧ { Geometry.reference with ethPreY := 12 }.wf = false := by decide +kernel

/-- 00_scope.md R18: each bound of a fixed node, broken alone. -/
theorem test_fixedNode_refused :
    (FixedNode.mk 31 31 16 11).wf = true ∧ (FixedNode.mk 32 0 0 0).wf = false ∧ (FixedNode.mk 0 32 0 0).wf = false
      ∧ (FixedNode.mk 0 0 17 0).wf = false ∧ (FixedNode.mk 0 0 0 12).wf = false := by decide +kernel

/-! ## Decoding: words written out from 30_encoding.md -/

/-- R125: PUSH of the P1 program, line 3 (op 0x01, q 0, `73 73 73 73` and 28 zero bytes); POP of line 5 (op 0x02, q 4). -/
theorem test_decode_push_pop :
    decode .reference (.port .transport) ([0x01, 0x00, 0x73, 0x73, 0x73, 0x73] ++ List.replicate 28 0) = .ok (.push .transport 0 echoReq)
      ∧ decode .reference (.port .transport) [0x02, 0x04] = .ok (.pop .transport 4) := by decide +kernel

/-- R125: the operations with a selector alone. -/
theorem test_decode_bare :
    decode .reference (.port .loop) [0x11] = .ok (.start .loop) ∧ decode .reference (.port .loop) [0x12] = .ok (.dpass .loop)
      ∧ decode .reference (.port .loop) [0x21] = .ok (.poll .loop) ∧ decode .reference (.port .transport) [0x22] = .ok (.readmsg .transport)
      ∧ decode .reference (.port .loop) [0x25] = .ok (.pingchk .loop) ∧ decode .reference (.port .loop) [0x26] = .ok (.inittick .loop)
      ∧ decode .reference (.port .timebase) [0x30] = .ok (.tick .timebase) ∧ decode .reference (.port .loop) [0x41] = .ok (.compute .loop)
      ∧ decode .reference (.port .loop) [0x42] = .ok (.program .loop) ∧ decode .reference (.port .loop) [0x43] = .ok (.clear .loop) := by
  decide +kernel

/-- R125: the operations with operands (P2 lines 1, 4 and 6; P3 line 1; R273's example), in the model's wire form. -/
theorem test_decode_operands :
    decode .reference (.port .loop) [0x20, 0x03, 0x2A, 0, 0, 0] = .ok (.post .loop 3 42)
      ∧ decode .reference (.port .transport) [0x24, 0x03, 0x01, 0x37, 0, 0, 0] = .ok (.msgin .transport ⟨3, 1, 55⟩)
      ∧ decode .reference (.port .transport) [0x23, 0x03, 0x00] = .ok (.ackin .transport ⟨3, 0⟩)
      ∧ decode .reference (.port .loop) [0x40, 0x08, 0x02, 0xFF, 0x01, 0x20, 0x34, 0x12, 0x01] = .ok (.setharv .loop 0x0208 0xFF 0x2001 0x1234 1)
      ∧ decode .reference (.port .loop) [0x10, 0xDE, 0x01] = .ok (.reg .loop 0xDE .debugNoc)
      ∧ decode .reference (.port .loop) [0x10, 0x73, 0x02] = .ok (.reg .loop 0x73 (.external 2))
      ∧ decode .reference (.port .handler) [0x03, 0x00, 0x06] = .ok (.stat .handler (.qstat 6)) := by decide +kernel

/-- R126, R112: the command code is byte 0; P3 line 6's request bytes. -/
theorem test_decode_commands :
    decode .reference (.request 2) (0x12 :: 0xAB :: List.replicate 30 0) = .ok (.setVoltage 2 ⟨0xAB, 0, 0, 0, 0, 0, 0, 0⟩)
      ∧ decode .reference (.request 0) (0x21 :: List.replicate 31 0) = .ok (.powerSetting 0 ⟨0, 0, 0, 0, 0, 0, 0, 0⟩)
      ∧ decode .reference (.request 0) (0x56 :: List.replicate 31 0) = .ok (.triggerReset 0 ⟨0, 0, 0, 0, 0, 0, 0, 0⟩)
      ∧ decode .reference (.request 3) (0xAC :: List.replicate 30 0 ++ [0x80]) = .ok (.forceFanSpeed 3 ⟨0, 0, 0, 0, 0, 0, 0, 0x80000000⟩)
      ∧ decode .reference (.request 0) (0xC0 :: List.replicate 31 0) = .ok (.pingDM 0 ⟨0, 0, 0, 0, 0, 0, 0, 0⟩)
      ∧ decode .reference (.request 1) ([0xDE, 0x01, 0x08, 0x02, 0xFF, 0x01, 0x20, 0x00] ++ List.replicate 24 0)
          = .ok (.debugNocTranslation 1 ⟨0x020801, 0x002001FF, 0, 0, 0, 0, 0, 0⟩) := by decide +kernel

/-- R127, R114: the kind is byte 0, the sequence number byte 1, the data little-endian from byte 2. -/
theorem test_decode_kinds :
    decode .reference .record [0, 4, 77, 0, 0, 0] = .ok (.nullMsg 4 77) ∧ decode .reference .record [1, 4, 0xAB, 0, 0, 0] = .ok (.resetReq 4 0xAB)
      ∧ decode .reference .record [2, 1, 9, 0, 0, 0] = .ok (.ping 1 9) ∧ decode .reference .record [3, 1, 0x37, 0, 0, 0] = .ok (.fanSpeedUpdate 1 55)
      ∧ decode .reference .record [4, 1, 0, 1, 0, 0] = .ok (.ready 1 0x100)
      ∧ decode .reference .record [5, 1, 3, 0, 0, 0x80] = .ok (.autoResetTimeoutUpdate 1 0x80000003)
      ∧ decode .reference .record [6, 2, 0x64, 0, 0, 0] = .ok (.heartbeatUpdate 2 100)
      ∧ decode .reference .record [7, 1, 0, 0, 2, 0] = .ok (.forcedFanSpeedUpdate 1 0x20000)
      ∧ decode .reference .record [8, 1, 0, 0, 0, 0] = .ok (.pingV2 1 0) := by decide +kernel

/-- R124, R128, R153: refused bytes (section 2.9): selector 0x50, queue 8, a 5-byte MSGIN operand, an unknown view. -/
theorem test_decode_refused :
    decode .reference (.port .loop) [0x50] = .error (.unknownSelector 0x50) ∧ decode .reference (.port .loop) [0x02, 8] = .error (.badQueue 8)
      ∧ decode .reference (.port .transport) [0x24, 3, 1, 55, 0, 0] = .error .badLength
      ∧ decode .reference (.port .loop) [0x03, 8, 0] = .error (.unknownView 8) ∧ decode .reference (.port .loop) [] = .error .noBytes := by decide +kernel

/-- R126, R127, R129: bytes that no row names. -/
theorem test_decode_unnamed :
    decode .reference (.request 0) (0x73 :: List.replicate 31 0) = .error (.unnamedCode 0x73)
      ∧ decode .reference .record [9, 1, 0, 0, 0, 0] = .error (.unnamedKind 9) := by decide +kernel

/-- The words of the opcode table: a row of each format, and the overlap of DPASS with SetVoltage (notes/assumptions/3.md). -/
theorem test_table_words :
    decodeTableWord 8 0x43 = some (.clear .loop) ∧ decodeTableWord 8 0xDE = some (.debugNocTranslation 0 ⟨0, 0, 0, 0, 0, 0, 0, 0⟩)
      ∧ decodeTableWord 8 0x05 = some (.autoResetTimeoutUpdate 0 0) ∧ decodeTableWord 8 0x12 = some (.dpass .loop)
      ∧ decodeTableWord 256 0x12 = some (.setVoltage 0 ⟨0, 0, 0, 0, 0, 0, 0, 0⟩) ∧ decodeTableWord 48 0x01 = some (.resetReq 0 0)
      ∧ decodeTableWord 8 0xFF = none := by decide +kernel

/-- A table word placed where the step fetches runs at once: CLEAR; TICK; a request; a record. -/
theorem test_withFetchWord_runs :
    look (step (State.reset.withFetchWord 8 0x43)) (·.out) = some (some (.loop, .result .ok))
      ∧ look (step (State.reset.withFetchWord 8 0x30)) (·.out) = some (some (.timebase, .result .ok))
      ∧ look (step (State.reset.withFetchWord 8 0xDE)) (fun t => (t.out, t.rmq[(0 : Fin 8)], t.rmq[(4 : Fin 8)], t.loop))
          = some (some (.loop, .result .ok), ⟨1, 1⟩, ⟨1, 0⟩, .pass 1)
      ∧ look (step (State.reset.withFetchWord 8 0x05)) (fun t => t.out) = some (some (.transport, .result (.ack ⟨5, 0⟩))) := by decide +kernel

/-! ## Ring queues (section 2.1) -/

/-- Q1: slot 3, wp wraps to 0, and the queue is full. -/
theorem test_push_wraps :
    look (exec (.push .transport 0 echoReq) (queues 4 7 4)) (fun t => (t.out, t.rmq[(0 : Fin 8)], t.occ 0, memRead t.mem 0 3))
      = some (some (.transport, .result .ok), ⟨0, 4⟩, 4, some echoReq) := by decide +kernel

/-- Q2, Q9: FULL leaves the queue; the wrong agent is refused. -/
theorem test_push_full_refused :
    exec (.push .transport 0 echoReq) (queues 4 0 4) = .next { queues 4 0 4 with out := some (.transport, .result .full) }
      ∧ exec (.push .loop 0 echoReq) (queues 4 0 0) = .next { queues 4 0 0 with refused := true, out := some (.loop, .refusal) } := by
  constructor <;> rfl

/-- Q3: C = 3, not a power of two: rp 3 names slot 0. -/
theorem test_pop_capacity3 :
    look (exec (.pop .loop 0) (holding 3 0 3 0 echoReq)) (fun t => (t.out, t.rmq[(0 : Fin 8)], t.occ 0))
      = some (some (.loop, .result (.entry echoReq)), ⟨0, 4⟩, 2) := by decide +kernel

/-- Q6, Q10: NONE where the pointers meet; the wrong agent is refused. -/
theorem test_pop_none_refused :
    look (exec (.pop .loop 0) (queues 4 5 5)) (fun t => (t.out, t.rmq[(0 : Fin 8)])) = some (some (.loop, .result .none), ⟨5, 5⟩)
      ∧ look (exec (.pop .transport 0) (queues 4 0 0)) (·.out) = some (some (.transport, .refusal)) := by decide +kernel

/-- Q8: the reset view of RSP2, and of a full queue. -/
theorem test_stat_qstat :
    look (exec (.stat .handler (.qstat 6)) State.reset) (·.out) = some (some (.handler, .result (.view (.qstat 0 0 0 true false))))
      ∧ look (exec (.stat .loop (.qstat 7)) (queues 4 7 3)) (·.out) = some (some (.loop, .result (.view (.qstat 7 3 4 false true)))) := by decide +kernel

/-- R59: TXSTAT at reset: pending 0, nothing in flight, no values, seq 0, cursor 0. -/
theorem test_stat_txstat :
    look (exec (.stat .loop .txstat) State.reset) (·.out)
      = some (some (.loop, .result (.view (.txstat (List.replicate 9 false) false none none none 0 0)))) := by decide +kernel

/-- R59, R342, R372: TMRSTAT at reset shows no ping result; after a check has timed out, TIMEOUT; FSTAT shows `BAD_KIND` of kind 9 as code 4, op 0x20. -/
theorem test_stat_guards :
    look (exec (.stat .loop .tmrstat) State.reset) (·.out)
        = some (some (.loop, .result (.view (.tmrstat false 0 0 false 0 0 false 0 false 0 none))))
      ∧ look (exec (.stat .loop .tmrstat) (timed { calm with pingHasResult := true })) (·.out)
        = some (some (.loop, .result (.view (.tmrstat false 0 0 false 0 0 false 0 false 0 (some .timeout)))))
      ∧ look (exec (.stat .loop .fstat) { State.reset with fault := [⟨.badKind, 0x20, 9⟩] }) (·.out)
        = some (some (.loop, .result (.view (.fstat [(4, 0x20, 9)] false)))) := by decide +kernel

/-! ## Dispatch (section 2.2) -/

/-- DV1, DV2: the first handler is registered, and kept. -/
theorem test_reg :
    look (exec (.reg .loop 0x73 (.external 2)) State.reset) (fun t => (t.out, vget t.disp.table 0x73 none)) = some (some (.loop, .result .ok), some (.external 2))
      ∧ look (exec (.reg .loop 0x73 .pingDM) { serving 0x73 (.external 2) State.reset with disp := { (serving 0x73 (.external 2) State.reset).disp with phase := .init } })
          (fun t => (t.fault, vget t.disp.table 0x73 none)) = some ([⟨.dupHandler, 0x10, 0x73⟩], some (.external 2)) := by decide +kernel

/-- DV3: REG in RUN. -/
theorem test_reg_after_start :
    look (exec (.reg .loop 0x21 .pingDM) (running State.reset)) (fun t => (t.fault, vget t.disp.table 0x21 none)) = some ([⟨.regAfterStart, 0x10, 0x21⟩], none) := by
  decide +kernel

/-- DV7: START twice. -/
theorem test_start :
    look (exec (.start .loop) State.reset) (fun t => (t.out, t.disp.phase)) = some (some (.loop, .result .ok), .run)
      ∧ look (exec (.start .loop) (running State.reset)) (fun t => (t.out, t.disp.phase)) = some (some (.loop, .result .ok), .run) := by decide +kernel

/-- DV6: DPASS in INIT raises the fault, and the request stays. -/
theorem test_dpass_before_start :
    look (exec (.dpass .loop) (holding 4 1 0 0 echoReq)) (fun t => (t.fault, t.occ 0)) = some ([⟨.dispatchBeforeStart, 0x12, 0⟩], 1) := by decide +kernel

/-- DV4's state, on channel 0: one request, every other queue empty, RUN. -/
def oneRequest (e : Entry) : State := running { holding 4 0 0 0 e with rmq := (queues 4 0 0).rmq.set 0 ⟨1, 0⟩ }

/-- DV4: an unregistered code takes the zero response, with no event. -/
theorem test_dpass_unregistered :
    look (exec (.dpass .loop) (oneRequest echoReq)) (fun t => ((t.rmq[(0 : Fin 8)], t.rmq[(4 : Fin 8)]), memRead t.mem 4 0))
        = some ((⟨1, 1⟩, ⟨1, 0⟩), some Entry.zero)
      ∧ look (exec (.dpass .loop) (oneRequest echoReq)) (fun t => (t.events, t.loop)) = some ([], .pass 1) := by decide +kernel

/-- R187, DV9: the external commands unregistered: the zero response; and dropped where RSP3 is full. -/
theorem test_setVoltage :
    look (exec (.setVoltage 3 ⟨1, 2, 3, 4, 5, 6, 7, 8⟩) (running State.reset)) (fun t => (memRead t.mem 7 0, t.events, t.loop)) = some (some Entry.zero, [], .idle)
      ∧ look (exec (.setVoltage 3 ⟨1, 2, 3, 4, 5, 6, 7, 8⟩) (running (queues 4 4 0))) (fun t => (t.mem, t.events)) = some ([], [(0, .rspDropped 3)]) := by
  decide +kernel

/-- R182: the external commands registered: the handler is called. -/
theorem test_powerSetting :
    look (exec (.powerSetting 0 ⟨0, 0, 0, 0, 0, 0, 0, 0⟩) (serving 0x21 (.external 2) State.reset)) (·.events) = some [(0, .handlerCall 0x21)] := by decide +kernel

theorem test_triggerReset :
    look (exec (.triggerReset 1 ⟨0, 0, 0, 0, 0, 0, 0, 0⟩) (serving 0x56 (.external 2) State.reset)) (fun t => (t.events, t.loop))
      = some ([(0, .handlerCall 0x56)], .pass 2) := by decide +kernel

theorem test_forceFanSpeed :
    look (exec (.forceFanSpeed 0 ⟨0, 0, 0, 0, 0, 0, 0, 0⟩) (serving 0xAC (.external 2) State.reset)) (·.events) = some [(0, .handlerCall 0xAC)] := by decide +kernel

/-- DV11: sem 1: alive at once, sem 0, the Ping posted. -/
theorem test_pingDM_alive :
    look (exec (.pingDM 0 ⟨0, 0, 0, 0, 0, 0, 0, 0⟩) (serving 0xC0 .pingDM (timed { calm with sem := 1 })))
      (fun t => (memRead t.mem 4 0, t.tmr.sem, vget t.tx.pending 2 false, t.events))
      = some (some ⟨0, 1, 0, 0, 0, 0, 0, 0⟩, 0, true, [(0, .handlerCall 0xC0)]) := by decide +kernel

/-- P6 line 4: sem 0: the check waits, and LOOP holds. -/
theorem test_pingDM_holds :
    look (exec (.pingDM 0 ⟨0, 0, 0, 0, 0, 0, 0, 0⟩) (serving 0xC0 .pingDM State.reset)) (fun t => (t.out, t.tmr.pingWait, t.tmr.pingRemaining, t.loop, t.rmq[(4 : Fin 8)]))
      = some (some (.loop, .hold), true, 1, .heldDispatch 0, ⟨0, 0⟩) := by decide +kernel

/-- NV10, second row: `bad_gddr` 8: status 1, nothing written. -/
theorem test_debugNoc_badGddr :
    look (exec (.debugNocTranslation 0 ⟨0x020801, 0x00200108, 0, 0, 0, 0, 0, 0⟩) (serving 0xDE .debugNoc State.reset))
      (fun t => (memRead t.mem 4 0, t.noc.harvValid, t.events)) = some (some ⟨1, 0, 0, 0, 0, 0, 0, 0⟩, false, [(0, .handlerCall 0xDE)]) := by decide +kernel

/-- NV10, first row and NV4: status 0, the registers written, `x[31] = 15`, 411 events. -/
theorem test_debugNoc_runs :
    look (exec (.debugNocTranslation 0 ⟨0x020801, 0x002001FF, 0, 0, 0, 0, 0, 0⟩) (serving 0xDE .debugNoc State.reset))
      (fun t => (memRead t.mem 4 0, t.noc.harv.skipEth, t.noc.ring0.xAt 31, t.noc.ring0.colMask, t.events.length))
      = some (some Entry.zero, 0x2001, 15, 0x1311, 411) := by decide +kernel

/-- An open pass at channel 0, and three inputs: LOOP's turn, a TICK, LOOP's turn. -/
def interleaved : State := { running State.reset with loop := .pass 0, inbox := [.turn, .port .timebase [0x30], .turn] }

/-- R93, R185: DSTEP(0), then the TICK, then DSTEP(1): another agent between two DSTEPs. -/
theorem test_interleaving :
    (look (step interleaved) (fun t => (t.out, t.loop)) = some (some (.loop, .result .ok), .pass 1))
      ∧ ((look (step interleaved) id).bind (fun t => look (step t) (fun u => (u.out, u.loop))) = some (some (.timebase, .result .ok), .pass 1))
      ∧ ((look (step interleaved) id).bind (fun t => (look (step t) id).bind (fun u => look (step u) (fun v => (v.out, v.loop))))
          = some (some (.loop, .result .ok), .pass 2)) := by decide +kernel

/-- R64: an outside change of `G` is no transaction. -/
theorem test_world : look (step (offered (.world 7) State.reset)) (fun t => (t.ext, t.out, t.events)) = some (7, none, []) := by decide +kernel

/-! ## CM2DM transmit (section 2.3) -/

/-- T1, T10, T11: POST sets value and pending bit; kinds 0 and 9 fault. -/
theorem test_post :
    look (exec (.post .loop 3 55) State.reset) (fun t => (t.out, vget t.tx.pending 3 false, vget t.tx.value 3 0)) = some (some (.loop, .result .ok), true, 55)
      ∧ look (exec (.post .loop 0 5) State.reset) (·.fault) = some [⟨.badKind, 0x20, 0⟩]
      ∧ look (exec (.post .loop 9 5) State.reset) (·.fault) = some [⟨.badKind, 0x20, 9⟩] := by decide +kernel

/-- T14: the scan wraps 8, 0, 1, 2. -/
theorem test_poll_wraps :
    look (exec (.poll .loop) { State.reset with tx := { State.reset.tx with pending := vset (vset State.reset.tx.pending 2 true) 7 true, nextIdRr := 8, seq := 255 } })
      (fun t => (t.out, t.tx.nextIdRr, vget t.tx.pending 7 false, vget t.tx.pending 2 false)) = some (some (.loop, .result (.record ⟨2, 0, 0⟩)), 3, true, false) := by decide +kernel

/-- T12: from reset, the Null record. -/
theorem test_poll_empty : exec (.poll .transport) State.reset = .next { State.reset with out := some (.transport, .result (.record ⟨0, 0, 0⟩)) } := by rfl

/-- T2: redelivery. -/
theorem test_readmsg :
    look (exec (.readmsg .transport) (flying 3 1 55 State.reset)) (·.out) = some (some (.transport, .result (.record ⟨3, 1, 55⟩)))
      ∧ look (exec (.readmsg .loop) (flying 3 1 55 State.reset)) (·.out) = some (some (.loop, .refusal)) := by decide +kernel

/-- T3, T4: a mismatch is discarded, a match retires. -/
theorem test_ackin :
    look (exec (.ackin .transport ⟨3, 2⟩) (flying 3 1 55 State.reset)) (·.tx.inflight.valid) = some true
      ∧ look (exec (.ackin .transport ⟨4, 1⟩) (flying 3 1 55 State.reset)) (·.tx.inflight.valid) = some true
      ∧ look (exec (.ackin .transport ⟨3, 1⟩) (flying 3 1 55 State.reset)) (fun t => (t.out, t.tx.inflight.valid, t.events)) = some (some (.transport, .result .ok), false, []) := by
  decide +kernel

/-- S2, S5, S6: a Ping's ack ends the wait; saturates; a PingV2's counts. -/
theorem test_ackin_gives :
    look (exec (.ackin .transport ⟨2, 1⟩) (flying 2 1 0 (timed { calm with pingWait := true, pingRemaining := 3 })))
        (fun t => (t.tmr.pingWait, t.tmr.pingResult, t.tmr.sem)) = some (false, .alive, 0)
      ∧ look (exec (.ackin .transport ⟨2, 1⟩) (flying 2 1 0 (timed { calm with sem := 0xFFFFFFFF }))) (·.tmr.sem) = some 0xFFFFFFFF
      ∧ look (exec (.ackin .transport ⟨8, 1⟩) (flying 8 1 0 State.reset)) (fun t => (t.tmr.sem, t.events)) = some (1, [(0, .pingGive)]) := by decide +kernel

/-! ## CM2DM receive (section 2.4) -/

/-- State of X1: message 7 accepted. -/
def accepted7 : State := { State.reset with rx := { State.reset.rx with lastSeqValid := true, lastSeq := 7 } }

/-- X4: a duplicate by sequence number alone arms no watchdog. -/
theorem test_msgin_duplicate :
    look (exec (.msgin .transport ⟨5, 7, 3⟩) accepted7) (fun t => (t.out, t.events, t.tmr.wdArmed))
      = some (some (.transport, .result (.ack ⟨5, 7⟩)), [(0, .ackOut 5 7), (1, .dupLog 7)], false) := by decide +kernel

/-- X7: an unknown kind is acknowledged and remembered, with no update. -/
theorem test_msgin_unknown :
    look (exec (.msgin .transport ⟨12, 1, 5⟩) State.reset) (fun t => (t.out, t.events, t.rx.lastSeq)) = some (some (.transport, .result (.ack ⟨12, 1⟩)), [(0, .ackOut 12 1)], 1) := by
  decide +kernel

/-- X6: the Null record. -/
theorem test_nullMsg : exec (.nullMsg 4 77) State.reset = .next { State.reset with out := some (.transport, .result .none) } := by rfl

/-- X13: the ack comes before the effect. -/
theorem test_resetReq :
    look (exec (.resetReq 4 0xAB) State.reset) (fun t => (t.tmr.rstPending, t.tmr.rstRemaining, t.tmr.rstArg, t.events))
      = some (true, 1, 0xAB, [(0, .ackOut 1 4), (1, .kindUpdate 1 0xAB)]) := by decide +kernel

/-- M2: once the reset output is 1, nothing starts. -/
theorem test_resetReq_after_output :
    look (exec (.resetReq 5 0xCD) (timed { calm with rstOut := true, rstArg := 0xAB })) (fun t => (t.tmr.rstPending, t.tmr.rstArg)) = some (false, 0xAB) := by decide +kernel

/-- X14: a Ping inbound leaves the semaphore. -/
theorem test_ping : look (exec (.ping 1 9) State.reset) (fun t => (vget t.rx.value 2 0, t.tmr.sem)) = some (9, 0) := by decide +kernel

/-- X1. -/
theorem test_fanSpeedUpdate :
    look (exec (.fanSpeedUpdate 7 100) State.reset) (fun t => (t.out, t.rx.lastSeq, t.rx.lastSeqValid, vget t.rx.value 3 0))
      = some (some (.transport, .result (.ack ⟨3, 7⟩)), 7, true, 100) := by decide +kernel

/-- R240. -/
theorem test_ready : look (exec (.ready 1 5) State.reset) (fun t => (vget t.rx.value 4 0, t.events)) = some (5, [(0, .ackOut 4 1), (1, .kindUpdate 4 5)]) := by decide +kernel

/-- X8, X9. -/
theorem test_autoResetTimeoutUpdate :
    look (exec (.autoResetTimeoutUpdate 1 3) State.reset) (fun t => (t.tmr.wdArmed, t.tmr.wdTimeout, t.tmr.wdRemaining)) = some (true, 3, 3)
      ∧ look (exec (.autoResetTimeoutUpdate 2 0) (timed { calm with wdArmed := true, wdTimeout := 3, wdRemaining := 3 }))
          (fun t => (t.tmr.wdArmed, t.tmr.wdTimeout, t.tmr.wdRemaining)) = some (false, 0, 0) := by decide +kernel

/-- X10: the first heartbeat restarts; X12: a disarmed watchdog stays so. -/
theorem test_heartbeatUpdate :
    look (exec (.heartbeatUpdate 2 100) (timed { calm with wdArmed := true, wdTimeout := 3, wdRemaining := 2 })) (·.tmr.wdRemaining) = some 3
      ∧ look (exec (.heartbeatUpdate 1 100) State.reset) (fun t => (t.rx.hbValid, t.rx.lastHb, t.tmr.wdArmed)) = some (true, 100, false) := by decide +kernel

/-- X11: an unchanged heartbeat restarts nothing. -/
theorem test_heartbeatUpdate_unchanged :
    look (exec (.heartbeatUpdate 3 100)
      { timed { calm with wdArmed := true, wdTimeout := 3, wdRemaining := 2 } with rx := { State.reset.rx with hbValid := true, lastHb := 100 } }) (·.tmr.wdRemaining) = some 2 := by
  decide +kernel

/-- R240, R237. -/
theorem test_forcedFanSpeedUpdate : look (exec (.forcedFanSpeedUpdate 1 5) State.reset) (fun t => vget t.rx.value 7 0) = some 5 := by decide +kernel

theorem test_pingV2 : look (exec (.pingV2 1 5) State.reset) (fun t => (vget t.rx.value 8 0, t.tmr.sem)) = some (5, 0) := by decide +kernel

/-! ## Timers, ping, gate (sections 2.5 to 2.7) -/

/-- M5: the reset completes first, then the watchdog expires and starts nothing. -/
theorem test_tick_order :
    look (exec (.tick .timebase) (timed { calm with wdArmed := true, wdTimeout := 1, wdRemaining := 1, rstPending := true, rstRemaining := 1, rstArg := 0xAB }))
      (fun t => (t.tmr, t.events)) = some ({ calm with wdTimeout := 1, rstArg := 0xAB, rstOut := true }, [(0, .resetOut 0xAB)]) := by decide +kernel

/-- M3, M6: the watchdog starts the reset path; the ping check times out. -/
theorem test_tick_expiries :
    look (exec (.tick .timebase) (timed { calm with wdArmed := true, wdTimeout := 3, wdRemaining := 1 })) (·.tmr)
        = some { calm with wdTimeout := 3, rstPending := true, rstRemaining := 1 }
      ∧ look (exec (.tick .timebase) (timed { calm with pingWait := true, pingRemaining := 1 })) (·.tmr) = some { calm with pingHasResult := true } := by decide +kernel

/-- S1, S3: taken at once; held. -/
theorem test_pingchk :
    look (exec (.pingchk .loop) (timed { calm with sem := 2 })) (fun t => (t.out, t.tmr.sem)) = some (some (.loop, .result .alive), 1)
      ∧ look (exec (.pingchk .loop) State.reset) (fun t => (t.out, t.tmr.pingWait, t.tmr.pingRemaining)) = some (some (.loop, .hold), true, 1) := by decide +kernel

/-- GV3: with the gate down no step is called. -/
theorem test_inittick :
    look (exec (.inittick .loop) { State.reset with gate := ⟨false⟩ }) (fun t => (t.out, t.events)) = some (some (.loop, .result .ok), []) := by decide +kernel

/-! ## NOC engine (section 2.8) -/

/-- NV11: SETHARV once, then refused. -/
theorem test_setharv :
    look (exec (.setharv .loop 0x0208 0xFF 0 0 1) State.reset) (fun t => (t.out, t.noc.harvValid, t.noc.harv)) = some (some (.loop, .result .ok), true, ⟨0x0208, 0xFF, 0, 0, 1, false, false⟩)
      ∧ look (exec (.setharv .loop 0 0 0 0 0) (harvested 0x0208 0xFF 0 1)) (fun t => (t.out, t.noc.harv.tensixBad)) = some (some (.loop, .refusal), 0x0208) := by decide +kernel

/-- NV1: ring 0's and ring 1's x tables, masks, and some logical entries. -/
theorem test_compute_scenarioC :
    look (exec (.compute .loop) (harvested 0x0208 0xFF 0 1))
      (fun t => ((List.range 32).map t.noc.ring0.xAt, (List.range 32).map t.noc.ring1.xAt, t.noc.ring0.colMask, t.noc.ring1.colMask,
        [(5, 2), (4, 2), (2, 0), (11, 0), (1, 1), (9, 0), (9, 11)].map (fun n => t.noc.ring0.logicalAt n.1 n.2)))
      = some ([0, 1, 2, 3, 5, 6, 7, 10, 8, 9, 11, 13, 14, 15, 16, 12, 4, 0, 9, 2, 1, 2, 3, 4, 5, 6, 7, 10, 11, 12, 13, 14],
          [16, 15, 14, 13, 11, 10, 9, 6, 8, 7, 5, 3, 2, 1, 0, 4, 12, 16, 7, 14, 15, 14, 13, 12, 11, 10, 9, 6, 5, 4, 3, 2],
          0x1311, 0x11190, [0x084, 0x090, 0x613, 0x00B, 0x654, 0x312, 0x5D2]) := by decide +kernel

/-- NV3: bad channel 1: the west half becomes pre-east, its rows last. -/
theorem test_compute_gddr1 :
    look (exec (.compute .loop) (harvested 0 1 0 1)) (fun t => (t.noc.ring0.xAt 17, t.noc.ring0.xAt 18, (List.range' 12 12).map t.noc.ring0.yAt, t.noc.ring0.logicalAt 0 3))
      = some (9, 0, [0, 1, 2, 6, 7, 8, 9, 10, 11, 3, 4, 5], packCoord 18 21) := by decide +kernel

/-- FV5: every compute column bad: the note, and the flag. -/
theorem test_compute_precond :
    look (exec (.compute .loop) (harvested 0x3FFF 0xFF 0 1)) (fun t => (t.out, t.fault, t.noc.precondViolated, t.noc.ring0.xAt 17, t.noc.ring0.colMask))
      = some (some (.loop, .result .ok), [⟨.precond, 0x41, 0⟩], true, 0, 0x1FFFF) := by decide +kernel

/-- The enable that a node write carries. -/
def enOf : Event → Option (Option Bool)
  | .nodeWrite _ _ _ rec => some rec.en
  | _ => none

/-- NV9: 410 events; event 97 leaves the ARC node's enable alone; event 205 is the enable of ring 0. -/
theorem test_program :
    look (exec (.program .loop) State.reset) (fun t => (t.events.length, t.events[204]?)) = some (410, some (204, .nodeEnable 0 8 0 false))
      ∧ look (exec (.program .loop) State.reset) (fun t => (t.events.drop 95).take 2 |>.map (fun e => enOf e.2)) = some [some (some false), some none] := by
  decide +kernel

/-- NV8. -/
theorem test_clear :
    look (exec (.clear .loop) (harvested 0x0208 0xFF 0 1)) (fun t => (t.noc.ring0.colMask, t.noc.ring0.rowMask, t.noc.ring1.colMask, t.noc.ring1.rowMask))
        = some (0x301, 0x3, 0x10180, 0xC00)
      ∧ look (exec (.clear .loop) (harvested 0x0208 0xFF 0 1)) (fun t => ((List.range 20).map t.noc.ring1.xAt, t.noc.ring1.logicalAt 0 0))
        = some ([16, 15, 14, 13, 12, 11, 10, 9, 8, 7, 6, 5, 4, 3, 2, 1, 0, 17, 18, 19], packCoord 16 11) := by decide +kernel

/-! ## Reset and the level outputs -/

/-- Z2, Z3: RESET clears the reset output and abandons a hold; the events stay. -/
theorem test_reset :
    look (step (offered .reset { timed { calm with rstOut := true, pingWait := true, pingRemaining := 1 } with loop := .heldCheck, events := [(0, .pingGive)] }))
      (fun t => (t.tmr, t.loop, t.events)) = some (calm, .idle, [(0, .pingGive)]) := by decide +kernel

/-! ## Witnesses: the hypotheses of each statement can be met -/

/-- DecodeEncodeAgree, DecodedIsInstruction. -/
theorem wit_encoding :
    KindIds.reference.wf = true ∧ (Instr.push .loop 7 echoReq).wellFormed = true ∧ (Instr.reg .loop 0xFF (.external 255)).wellFormed = true
      ∧ decode .reference (.port .loop) [0x02, 7] = .ok (.pop .loop 7) ∧ decode .reference (.port .loop) [0x03, 7, 9] = .ok (.stat .loop .fstat)
      ∧ decode .reference .record [8, 0, 0, 0, 0, 0] = .ok (.pingV2 0 0) := by decide +kernel

/-- IllegalBytesRefused: one byte string for each clause, offered to an idle block. -/
theorem wit_IllegalBytesRefused :
    (∀ bytes : List Byte, takeInput (offered (.port .transport bytes) State.reset) = .port .transport bytes State.reset)
      ∧ (0x04 : Byte) ∉ ([0x01, 0x02, 0x03, 0x10, 0x11, 0x12, 0x20, 0x21, 0x22, 0x23, 0x24, 0x25, 0x26, 0x30, 0x40, 0x41, 0x42, 0x43] : List Byte)
      ∧ 8 ≤ (8 : Byte).toNat ∧ ([1, 2, 3] : List Byte).length ≠ 2 ∧ ([1, 2, 3, 4, 5] : List Byte).length ≠ 6 :=
  ⟨fun _ => rfl, by decide +kernel⟩

/-- RecordLayouts: lengths 24 and 23, coordinates at both ends of the range. -/
theorem wit_RecordLayouts : (List.replicate 24 (0 : Byte)).length = 24 ∧ (List.replicate 23 (0 : Byte)).length ≠ 24 ∧ 63 < 64 ∧ 0 < 64 := by decide

/-- IgnoredBitsChangeNothing: requests that differ in every ignored bit, and harvest registers that differ in every ignored bit. -/
theorem wit_IgnoredBitsChangeNothing :
    ((∀ k, k < 32 → ¬(11 ≤ k ∧ k < 16) → (0x020801DE : Word).getLsbD k = (0x0208F9DE : Word).getLsbD k)
      ∧ ∀ k, k < 24 → (0x002001FF : Word).getLsbD k = (0xFF2001FF : Word).getLsbD k)
    ∧ (∀ i, i < 14 → (0x0208 : Half).getLsbD i = (0xC208 : Half).getLsbD i)
      ∧ ∀ l, l < Params.reference.geo.ethX.length → (0x2001 : Half).getLsbD l = (0xE001 : Half).getLsbD l := by decide +kernel

/-- PushMeaning, StatMeaning: an illegal index; a wrong producer; a full queue (occupancy C); the last free place (C - 1). -/
theorem wit_PushMeaning :
    8 ≤ (8 : Byte).toNat ∧ (7 : Fin 8).val = (7 : Byte).toNat ∧ Agent.transport ≠ producer 7 ∧ Agent.loop = producer 7
      ∧ (queues 4 0 4).cfg.queueCapacity ≤ (queues 4 0 4).occ 7 ∧ (queues 4 7 4).occ 7 < (queues 4 7 4).cfg.queueCapacity := by decide +kernel

/-- PopMeaning: an illegal index; a wrong consumer; pointers equal at 2C - 1; an entry in the last slot. -/
theorem wit_PopMeaning :
    8 ≤ (255 : Byte).toNat ∧ Agent.loop ≠ consumer 4 ∧ Agent.transport = consumer 4 ∧ (queues 4 7 7).rmq[(4 : Fin 8)].wp = (queues 4 7 7).rmq[(4 : Fin 8)].rp
      ∧ (holding 4 0 7 4 echoReq).rmq[(4 : Fin 8)].wp ≠ (holding 4 0 7 4 echoReq).rmq[(4 : Fin 8)].rp
      ∧ (holding 4 0 7 4 echoReq).headEntry 4 = some echoReq := by decide +kernel

/-- UnwrittenSlotStops: pointers apart, nothing written; such an instruction, and such a DSTEP(3). -/
theorem wit_UnwrittenSlotStops :
    (queues 4 1 0).rmq[(0 : Fin 8)].wp ≠ (queues 4 1 0).rmq[(0 : Fin 8)].rp ∧ (running (queues 4 1 0)).headEntry 0 = none ∧ (running (queues 4 1 0)).disp.phase = .run
      ∧ exec (.pop .loop 0) (queues 4 1 0) = .fault (.unwrittenSlot 0 0)
      ∧ takeInput { running (queues 4 1 0) with loop := .pass 3 } = .loopGoes { running (queues 4 1 0) with loop := .pass 3 }
      ∧ step { running (queues 4 1 0) with loop := .pass 3 } = .fault (.unwrittenSlot 3 0) :=
  ⟨by decide +kernel, by decide +kernel, by decide +kernel, rfl, rfl, rfl⟩

/-- QueuesAreFifo, StepKeepsQueueOrder: reset, and the echo request offered to it. -/
theorem wit_queueLaws :
    1 ≤ State.reset.cfg.queueCapacity ∧ (∀ q : Fin 8, State.reset.rmq[q] = ⟨0, 0⟩) ∧ QueueBounded State.reset 0
      ∧ ∃ t, NoReset (offered (.port .loop [0x11]) State.reset) ∧ step (offered (.port .loop [0x11]) State.reset) = .next t :=
  ⟨by decide +kernel, by decide +kernel, by unfold QueueBounded; decide +kernel, _, (fun _ h => nomatch h), rfl⟩

/-- RegMeaning, StartMeaning: each clause. -/
theorem wit_RegMeaning :
    Agent.handler ≠ .loop ∧ (running State.reset).disp.phase = .run ∧ State.reset.disp.phase = .init ∧ vget State.reset.disp.table 255 none = none
      ∧ ({ State.reset with disp := ⟨vset State.reset.disp.table 255 (some .pingDM), .init⟩ }).disp.phase = .init
      ∧ vget ({ State.reset with disp := ⟨vset State.reset.disp.table 255 (some .pingDM), .init⟩ }).disp.table 255 none ≠ none := by decide +kernel

/-- A request of code 0xDE on channel 0, in RUN. -/
def debugRequest : State := oneRequest ⟨0x020801DE, 0x002001FF, 0, 0, 0, 0, 0, 0⟩

/-- DpassMeaning: an empty REQ0; a request taken; its command; no handler; an external handler. -/
theorem wit_DpassMeaning :
    (running (queues 4 0 0)).disp.phase = .run ∧ (running (queues 4 0 0)).rmq[reqQueue 0].wp = (running (queues 4 0 0)).rmq[reqQueue 0].rp
      ∧ debugRequest.rmq[reqQueue 0].wp ≠ debugRequest.rmq[reqQueue 0].rp ∧ debugRequest.headEntry (reqQueue 0) = some ⟨0x020801DE, 0x002001FF, 0, 0, 0, 0, 0, 0⟩
      ∧ decodeEntry 0 ⟨0x020801DE, 0x002001FF, 0, 0, 0, 0, 0, 0⟩ = .ok (.debugNocTranslation 0 ⟨0x020801, 0x002001FF, 0, 0, 0, 0, 0, 0⟩)
      ∧ vget debugRequest.disp.table (requestCode echoReq).toNat none = none
      ∧ vget (serving 0x73 (.external 2) (oneRequest echoReq)).disp.table (requestCode echoReq).toNat none = some (.external 2) := by decide +kernel

/-- A state in which LOOP goes on with an open pass at channel `c`. -/
def passing (c : Fin 4) (s : State) : State := { s with loop := .pass c }

/-- PassGoesOn, the third clause of StepRunsDecoded: an open pass at channel 0 (a request waits) and at channel 3 (none). -/
theorem wit_PassGoesOn :
    takeInput (passing 3 debugRequest) = .loopGoes (passing 3 debugRequest) ∧ takeInput (passing 0 debugRequest) = .loopGoes (passing 0 debugRequest)
      ∧ (passing 3 debugRequest).disp.phase = .run ∧ (passing 3 debugRequest).rmq[reqQueue 3].wp = (passing 3 debugRequest).rmq[reqQueue 3].rp
      ∧ (passing 0 debugRequest).rmq[reqQueue 0].wp ≠ (passing 0 debugRequest).rmq[reqQueue 0].rp
      ∧ (passing 0 debugRequest).headEntry (reqQueue 0) = some ⟨0x020801DE, 0x002001FF, 0, 0, 0, 0, 0, 0⟩ :=
  ⟨rfl, rfl, by decide +kernel, by decide +kernel, by decide +kernel, by decide +kernel⟩

/-- PassGoesOn, a code that no row names, on channel 3 of an open pass: no handler, and each kind of handler (DV8). -/
theorem wit_PassGoesOn_unnamed :
    (requestCode echoReq = 0x73 ∧ (decodeEntry 3 echoReq).toOption = none)
      ∧ (∀ h ∈ [HandlerName.external 2, .pingDM, .debugNoc],
        vget (passing 3 (serving 0x73 h (holding 4 1 0 3 echoReq))).disp.table (requestCode echoReq).toNat none = some h)
      ∧ (passing 3 (serving 0x73 .pingDM (holding 4 1 0 3 echoReq))).rmq[reqQueue 3].wp ≠ (passing 3 (serving 0x73 .pingDM (holding 4 1 0 3 echoReq))).rmq[reqQueue 3].rp
      ∧ (passing 3 (serving 0x73 .pingDM (holding 4 1 0 3 echoReq))).headEntry (reqQueue 3) = some echoReq := by decide +kernel

/-- UnregisteredZero, ExternalHandlerResponds, PingDmStarts, DebugNocCommand: each of the six codes is a command, and each kind of handler can stand in the table. -/
theorem wit_commands :
    (∀ code ∈ ([0x12, 0x21, 0x56, 0xAC, 0xC0, 0xDE] : List Byte), (decodeCommand 3 code ⟨0, 0, 0, 0, 0, 0, 0, 0⟩).toOption.isSome = true
        ∧ vget State.reset.disp.table code.toNat none = none
        ∧ ∀ h ∈ [HandlerName.external 255, .pingDM, .debugNoc], vget (serving code h State.reset).disp.table code.toNat none = some h)
      ∧ (timed { calm with sem := 1 }).tmr.sem ≠ 0 ∧ State.reset.tmr.sem = 0 := by decide +kernel

/-- The payloads of NV10's rows, and `bad_gddr` at the last channel. -/
def nv10 : List Payload :=
  [⟨0x020801, 0x00200108, 0, 0, 0, 0, 0, 0⟩, ⟨0x000000, 0, 0, 0, 0, 0, 0, 0⟩, ⟨0x020801, 0x00200107, 0, 0, 0, 0, 0, 0⟩, ⟨0xFFFF01, 0xFF, 0, 0, 0, 0, 0, 0⟩]

/-- DebugNocCommand: out of range (8); translation off; in range (7); every column bad. -/
theorem wit_DebugNocCommand :
    nv10.map (fun p => ((dbgNocFields (requestEntry 0xDE p)).badGddr, (dbgNocFields (requestEntry 0xDE p)).enable,
        decide ((dbgNocFields (requestEntry 0xDE p)).badTensix.extractLsb' 0 14 = 0x3FFF)))
      = [(8, true, false), (0, false, false), (7, true, false), (0xFF, true, true)]
    ∧ State.reset.cfg.gddrNone = 0xFF ∧ State.reset.cfg.geo.nGddr = 8 := by decide +kernel

/-- PingDmResumes, the second part of PingchkMeaning: a hold that has been lifted. -/
theorem wit_resumes :
    takeInput { State.reset with loop := .heldDispatch 3 } = .loopGoes { State.reset with loop := .heldDispatch 3 }
      ∧ takeInput { State.reset with loop := .heldCheck } = .loopGoes { State.reset with loop := .heldCheck } := ⟨rfl, rfl⟩

/-- Kinds 2 and 7 pending, the cursor at 8, nothing in flight (T14). -/
def twoPending : State :=
  { State.reset with tx := { State.reset.tx with pending := vset (vset State.reset.tx.pending 2 true) 7 true, nextIdRr := 8 } }

/-- PostMeaning: kinds 0, 9 and 8. PollMeaning, PendingKindComesCloser: in flight; nothing pending; kind 2 nearest, kind 7 waiting. -/
theorem wit_transmit :
    ((0 : Byte) = 0 ∧ State.reset.cfg.kindCount ≤ (9 : Byte).toNat ∧ (8 : Byte) ≠ 0 ∧ (8 : Byte).toNat < State.reset.cfg.kindCount)
      ∧ (flying 3 1 55 State.reset).tx.inflight.valid = true ∧ (State.reset.tx.inflight.valid = false ∧ ∀ k, k < State.reset.cfg.kindCount → vget State.reset.tx.pending k false = false)
      ∧ twoPending.tx.inflight.valid = false ∧ twoPending.tx.nextIdRr < twoPending.cfg.kindCount ∧ vget twoPending.tx.pending 2 false = true ∧ vget twoPending.tx.pending 7 false = true
      ∧ (∀ j, j < twoPending.cfg.kindCount → vget twoPending.tx.pending j false = true → scanDistance twoPending 2 ≤ scanDistance twoPending j)
      ∧ agentAllowed (.poll .loop) = true ∧ (look (exec (.poll .loop) twoPending) (·.tx.nextIdRr)).isSome = true := by decide +kernel

/-- ReadmsgAndRedelivery, AckinMeaning: a match of a plain kind, of a Ping with and without a waiting check; a mismatch. LastValueWins. -/
theorem wit_acks :
    ((flying 3 1 55 State.reset).tx.inflight.valid = true ∧ (⟨3, 1⟩ : Ack).id = (flying 3 1 55 State.reset).tx.inflight.kind ∧ (3 : Byte) ≠ State.reset.cfg.kindId.ping ∧ (3 : Byte) ≠ State.reset.cfg.kindId.pingV2)
      ∧ (2 : Byte) = State.reset.cfg.kindId.ping ∧ (8 : Byte) = State.reset.cfg.kindId.pingV2
      ∧ (timed { calm with pingWait := true, pingRemaining := 1 }).tmr.pingWait = true ∧ State.reset.tmr.pingWait = false
      ∧ (look (exec (.post .loop 8 5) State.reset) (·.refused)).isSome = true := by decide +kernel

/-- InflightSequence, LatchesHoldUntilReset, EventsOnlyGrow: a POLL that selects. -/
theorem wit_steps : ∃ t, NoReset (offered (.port .loop [0x21]) twoPending) ∧ step (offered (.port .loop [0x21]) twoPending) = .next t :=
  ⟨_, (fun _ h => nomatch h), rfl⟩

/-- KindsWithoutEffect, StorageKinds and the effects of the other kinds: a first message, a message after message 7, kind ids at the ends of their ranges. -/
theorem wit_newMessage :
    isNew State.reset 0 ∧ isNew accepted7 8 ∧ State.reset.cfg.wf = true ∧ State.reset.cfg.kindCount ≤ (9 : Byte).toNat
      ∧ (8 : Byte) ∉ [0, State.reset.cfg.kindId.resetReq, State.reset.cfg.kindId.autoResetTimeoutUpdate, State.reset.cfg.kindId.heartbeatUpdate]
      ∧ (8 : Byte).toNat < State.reset.cfg.kindCount := by unfold isNew; decide +kernel

/-- DuplicateInbound: message 7 again, not yet logged and logged. DeliveredTwice, MsginRunsKind. -/
theorem wit_duplicate :
    accepted7.rx.lastSeqValid = true ∧ (7 : Byte) = accepted7.rx.lastSeq ∧ accepted7.rx.dupLogValid = false
      ∧ ({ accepted7 with rx := { accepted7.rx with dupLogValid := true, dupLogSeq := 7 } }).rx.dupLogSeq = 7
      ∧ (look (exec (.msgin .transport ⟨3, 7, 100⟩) accepted7) (·.refused)).isSome = true
      ∧ decodeKind State.reset.cfg.kindId ⟨8, 1, 0⟩ = .ok (.pingV2 1 0) := by decide +kernel

/-- HandshakeRetires: P2, line 7. -/
theorem wit_HandshakeRetires : (flying 3 1 55 State.reset).tx.inflight.valid = true ∧ (flying 3 1 55 State.reset).tx.inflight.kind ≠ 0 := by decide +kernel

/-- WatchdogExpires: 3 ticks left, a delay of 1. PingTerminates, PingchkMeaning: a check at sem 0, and at sem 1. -/
theorem wit_timers :
    ((timed { calm with wdArmed := true, wdTimeout := 3, wdRemaining := 3 }).tmr.wdRemaining.toNat = 3 ∧ 1 ≤ 3 ∧ State.reset.cfg.resetDelayTicks.toNat = 1
      ∧ calm.rstPending = false ∧ calm.rstOut = false)
      ∧ 1 ≤ State.reset.cfg.pingTimeoutTicks.toNat ∧ (look (exec (.pingchk .loop) State.reset) (·.refused)).isSome = true
      ∧ (timed { calm with sem := 1 }).tmr.sem ≠ 0 := by decide +kernel

/-- LOOP held in a check that waits one more tick, with some inputs offered. -/
def waiting (ib : List Input) : State :=
  { serving 0xC0 .pingDM (timed { calm with pingWait := true, pingRemaining := 1 }) with loop := .heldDispatch 0, inbox := ib }

/-- PingTerminates: a run of a held check with one TICK and an operation of another agent; the check of `H_PINGDM` is in wit_commands and test_pingDM_holds. -/
theorem wit_PingTerminates :
    held (waiting [.port .transport [0x22], .port .timebase [0x30]]) = true
      ∧ (waiting [.port .transport [0x22], .port .timebase [0x30]]).tmr.pingRemaining.toNat = 1
      ∧ (runSteps 2 (waiting [.port .transport [0x22], .port .timebase [0x30]])).map Prod.fst = some 1 := by decide +kernel

/-- BusyLoopTakesNoOperation: LOOP held, with a TICK alone and behind an operation of LOOP; LOOP in an open pass, with a TICK, a RESET, LOOP's turn, LOOP's operation and no input. -/
theorem wit_BusyLoop :
    (held (waiting []) = true ∧ (takeInput (waiting [.port .loop [0x11], .port .timebase [0x30]]) = .port .timebase [0x30] (waiting [.port .loop [0x11]])))
      ∧ takeInput { passing 1 State.reset with inbox := [.port .timebase [0x30]] } = .port .timebase [0x30] (passing 1 State.reset)
      ∧ takeInput { passing 1 State.reset with inbox := [.reset] } = .reset (passing 1 State.reset)
      ∧ takeInput { passing 1 State.reset with inbox := [.turn] } = .loopGoes (passing 1 State.reset)
      ∧ takeInput { passing 1 State.reset with inbox := [.port .loop [0x11]] } = .loopGoes { passing 1 State.reset with inbox := [.port .loop [0x11]] }
      ∧ takeInput (passing 1 State.reset) = .loopGoes (passing 1 State.reset) ∧ held (passing 1 State.reset) = false :=
  ⟨⟨rfl, rfl⟩, rfl, rfl, rfl, rfl, rfl, rfl⟩

/-- InittickMeaning: the gate down and up; whatever the steps answer, one of the three clauses applies. -/
theorem wit_InittickMeaning :
    ({ State.reset with gate := ⟨false⟩ } : State).gate.needsInit = false ∧ State.reset.gate.needsInit = true
      ∧ ∃ (ok0 ok1 ok2 : Bool) (g0 g1 g2 : Nat), (ok0, g0) = Config.initStep 0 State.reset.ext ∧ (ok1, g1) = Config.initStep 1 g0 ∧ (ok2, g2) = Config.initStep 2 g1
        ∧ (ok0 = false ∨ (ok0 = true ∧ ok1 = false) ∨ (ok0 = true ∧ ok1 = true)) :=
  ⟨rfl, rfl, _, _, _, _, _, _, rfl, rfl, rfl, by cases (Config.initStep 0 State.reset.ext).1 <;> cases (Config.initStep 1 (Config.initStep 0 State.reset.ext).2).1 <;> decide⟩

/-- SetharvMeaning, ComputeMeaning: registers empty, and full with no bad channel and with the last channel bad. -/
theorem wit_ComputeMeaning :
    State.reset.noc.harvValid = false ∧ (harvested 0x0208 0xFF 0 1).noc.harvValid = true ∧ (harvested 0x0208 0xFF 0 1).noc.harv.tensixBad.extractLsb' 0 14 ≠ 0x3FFF
      ∧ (harvested 0x0208 0xFF 0 1).noc.harv.gddrBad = (harvested 0x0208 0xFF 0 1).cfg.gddrNone
      ∧ (harvested 0x1FFF 7 0 1).noc.harv.gddrBad.toNat < (harvested 0x1FFF 7 0 1).cfg.geo.nGddr := by decide +kernel

/-- ComputeViolated: every column bad (bits 15..14 set too), an impossible channel (8), and both. -/
theorem wit_ComputeViolated :
    Params.reference.wf = true ∧ (harvested 0xFFFF 8 0 1).noc.harvValid = true ∧ (harvested 0xFFFF 8 0 1).noc.harv.tensixBad.extractLsb' 0 14 = 0x3FFF
      ∧ (harvested 0xFFFF 8 0 1).noc.harv.gddrBad ≠ Params.reference.gddrNone ∧ Params.reference.geo.nGddr ≤ (harvested 0xFFFF 8 0 1).noc.harv.gddrBad.toNat := by decide +kernel

/-- ClassesDoNotAlias, LogicalRoundTrip, MirrorLaw: the reference geometry with one fixed node, two bad columns, a bad channel and a skipped lane; a node of each clause. -/
theorem wit_nocLaws :
    ({ Params.reference with fixedNodes := [⟨8, 30, 8, 1⟩] } : Params).wf = true ∧ FixedNodesApart Geometry.reference [⟨8, 30, 8, 1⟩]
      ∧ violatedClasses Params.reference ⟨0x0208, 5, 0x2001, 0, 1, false, false⟩ = []
      ∧ SetByEngine Geometry.reference [⟨8, 30, 8, 1⟩] ⟨0x0208, 5, 0x2001, 0, 1, false, false⟩ 8 1
      ∧ SetByEngine Geometry.reference [] ⟨0x0208, 5, 0x2001, 0, 1, false, false⟩ 2 0
      ∧ SetByEngine Geometry.reference [] ⟨0x0208, 5, 0x2001, 0, 1, false, false⟩ 16 11 := by
  refine ⟨by decide +kernel, ?_, by decide +kernel, .inr (.inr ⟨_, .head _, rfl⟩), .inr (.inl rfl), .inl ?_⟩
  · unfold FixedNodesApart; decide +kernel
  · exact ⟨_, .head _, 14, by decide +kernel, 11, by decide +kernel, by decide +kernel, by decide +kernel, by decide +kernel⟩

/-- ClassesDoNotAlias, its clauses on the bad channel, on unused slots and on untouched indices: channel 3 is the last of the west half, channel 4 the first of the east, 0xFF none; with 11 lanes slot 11 is unused; index 8 belongs to no class. -/
theorem wit_classes :
    ((3 : Byte).toNat < Params.reference.geo.nGddr ∧ (3 : Byte).toNat / Params.reference.geo.gddrPerCol = 0 ∧ (4 : Byte).toNat / Params.reference.geo.gddrPerCol = 1
      ∧ Params.reference.geo.nGddr ≤ (0xFF : Byte).toNat)
      ∧ ((List.range Params.reference.geo.ethX.length).filter (fun l => !(0x2009 : Half).getLsbD l)).length = 11
      ∧ 8 ∉ Params.reference.geo.preXs ∧ 0 ∉ Params.reference.geo.preYs := by decide +kernel

/-- The table of two bad columns, a bad channel and two skipped lanes. -/
def someTable : Table := computedTable Geometry.reference [] ⟨0x0208, 5, 0x2001, 0, 1, false, false⟩

/-- LogicalRoundTrip, its clauses on single entries: node (1, 1) (a skipped lane) is set by nothing; (8, 1) by one fixed node; (16, 11) by one pre coordinate of one box. -/
theorem wit_logical :
    ¬SetByEngine Geometry.reference [] ⟨0x0208, 5, 0x2001, 0, 1, false, false⟩ 1 1
      ∧ ([⟨8, 30, 8, 1⟩] : List FixedNode) = [] ++ ⟨8, 30, 8, 1⟩ :: []
      ∧ someTable.translate 14 11 = (16, 11)
      ∧ ∀ b' ∈ sweepBoxes Geometry.reference, ∀ px' ∈ b'.preX, ∀ py' ∈ b'.preY, 16 ∈ b'.targetX → 11 ∈ b'.targetY →
          someTable.translate px' py' = (16, 11) → px' = 14 ∧ py' = 11 := by
  unfold SetByEngine
  decide +kernel

/-- MirrorLaw: a table inside the grid, and the runs of its second part. -/
theorem wit_MirrorLaw :
    (clearedTable Geometry.reference).colMask.toNat < 2 ^ 17 ∧ (clearedTable Geometry.reference).rowMask.toNat < 2 ^ 12
      ∧ violatedClasses Params.reference (harvested 0x0208 0xFF 0 1).noc.harv = [] ∧ Geometry.reference.wf = true
      ∧ (look (exec (.clear .loop) State.reset) (·.refused)).isSome = true ∧ (look (exec (.compute .loop) (harvested 0x0208 0xFF 0 1)) (·.refused)).isSome = true := by
  decide +kernel

/-- WrongAgentRefused: a wrong agent for each operation but STAT, which has none. -/
theorem wit_WrongAgentRefused :
    [Instr.push .loop 3 echoReq, .push .transport 4 echoReq, .pop .transport 3, .pop .loop 4, .reg .handler 0 .pingDM, .start .transport, .dpass .handler,
      .post .transport 3 1, .poll .timebase, .readmsg .loop, .ackin .loop ⟨3, 1⟩, .msgin .loop ⟨3, 1, 0⟩, .pingchk .handler, .inittick .reset, .tick .loop,
      .setharv .transport 0 0 0 0 0, .compute .handler, .program .handler, .clear .reset].map agentAllowed = List.replicate 19 false := by decide +kernel

/-- StepRunsDecoded: an operation offered to an idle LOOP, and an empty inbox. -/
theorem wit_StepRunsDecoded :
    takeInput (offered (.port .loop [0x11]) State.reset) = .port .loop [0x11] State.reset ∧ decode State.reset.cfg.kindId (.port .loop) [0x11] = .ok (.start .loop)
      ∧ State.reset.loop = .idle ∧ State.reset.inbox = [] := ⟨rfl, rfl, rfl, rfl⟩

/-- LatchesHoldUntilReset: a state with every latch set, and a step of it. -/
theorem wit_latches :
    ∃ s t : State, NoReset s ∧ step s = .next t ∧ s.fault = [⟨.badKind, 0x20, 0⟩] ∧ s.refused = true ∧ s.tmr.rstOut = true ∧ s.noc.precondViolated = true
      ∧ s.gate.needsInit = false ∧ s.noc.harvValid = true ∧ s.disp.phase = .run :=
  ⟨{ running (timed { calm with rstOut := true }) with
      fault := [⟨.badKind, 0x20, 0⟩], refused := true, gate := ⟨false⟩, noc := { State.reset.noc with harvValid := true, precondViolated := true } },
    _, (fun _ h => nomatch h), rfl, rfl, rfl, rfl, rfl, rfl, rfl, rfl⟩

/-- ResetMeaning: RESET offered while LOOP holds. -/
theorem wit_ResetMeaning :
    takeInput (offered .reset { timed { calm with pingWait := true, pingRemaining := 1 } with loop := .heldCheck })
      = .reset { timed { calm with pingWait := true, pingRemaining := 1 } with loop := .heldCheck } := rfl

/-- InvKept, EveryStepCompletes: the invariant holds at reset with an operation offered, and the step of it goes on. -/
theorem wit_Inv : Inv (offered (.port .loop [0x11]) State.reset) ∧ ∃ t, step (offered (.port .loop [0x11]) State.reset) = .next t := by
  refine ⟨⟨by decide +kernel, ?_, ?_, by decide +kernel, ?_, ?_, ?_, ?_, ?_⟩, _, rfl⟩
  · unfold QueueBounded; decide +kernel
  · intro q j h
    have h0 : ∀ q, (offered (.port .loop [0x11]) State.reset).occ q = 0 := by decide +kernel
    have := h0 q
    omega
  · refine ⟨fun k h => ?_, by decide +kernel⟩
    have h0 : vget (Vector.replicate 256 false) k false = false := by
      simp only [vget, Vector.getElem?_replicate]; split <;> rfl
    exact absurd (h0.symm.trans h) (by decide)
  · unfold TimersBounded; decide +kernel
  · refine ⟨(fun h => nomatch h), ?_, ?_⟩
    · rintro (h | ⟨c, h⟩) <;> cases h
    · rintro c (h | h) <;> cases h
  · exact fun _ => rfl
  · unfold HistoriesWf; decide +kernel

end Sys2Proof.Tests
end

section
/-! PROOF. A step runs the decoded instruction: one equation for `step` per kind of transaction that `takeInput` answers, what taking a request from a channel does, and what the command that a request's code names does. -/

namespace Sys2Proof.Machine

/-! ## What is taken with LOOP idle -/

theorem held_idle (s : State) (h : s.loop = .idle) : held s = false := by
  simp [held, h]

theorem loopReady_idle (s : State) (h : s.loop = .idle) : loopReady s = false := by
  simp [loopReady, h]

/-- With LOOP idle the first input is the one taken, LOOP's own operations among them. -/
theorem takeInput_idle_cons (s : State) (i : Input) (rest : List Input) (hl : s.loop = .idle) (hi : s.inbox = i :: rest) :
    takeInput s = takeNow i { s with inbox := rest } := by
  simp [takeInput, held_idle s hl, loopReady_idle s hl, hi]

theorem takeInput_idle_nil (s : State) (hl : s.loop = .idle) (hi : s.inbox = []) : takeInput s = .quiet s := by
  simp [takeInput, takeTurn, held_idle s hl, loopReady_idle s hl, hi]

/-! ## The step, by what is taken -/

theorem step_of_quiet (s u : State) (h : takeInput s = .quiet u) : step s = .next u := by
  simp only [step, h]

theorem step_of_loopGoes (s u : State) (h : takeInput s = .loopGoes u) : step s = loopTurn u := by
  simp only [step, h]

/-- LOOP's turn in an open pass is the next DSTEP (41_dispatch.md R185). -/
theorem step_of_pass (s u : State) (c : Fin 4) (h : takeInput s = .loopGoes u) (hl : u.loop = .pass c) : step s = dstep c u := by
  rw [step_of_loopGoes s u h]
  simp only [loopTurn, hl]

theorem step_of_port (s u : State) (a : Agent) (bytes : List Byte) (i : Instr) (h : takeInput s = .port a bytes u)
    (hd : decode u.cfg.kindId (.port a) bytes = .ok i) : step s = exec i u := by
  simp only [step, h, hd]

/-! ## A request taken in a pass -/

/-- A pop of a queue that holds a written entry gives its oldest (40_queue.md R152). -/
theorem tryPop_headEntry (q : Fin 8) (s : State) (e : Entry) (hne : s.rmq[q].wp ≠ s.rmq[q].rp) (he : s.headEntry q = some e) :
    tryPop q s = .got e (s.taken q) := by
  have hm : memRead s.mem q (slotOf s.cfg.queueCapacity s.rmq[q].rp) = some e := he
  rcases tryPop_cases q s with ⟨hempty, _⟩ | ⟨_, hnone, _⟩ | ⟨e', _, hsome, hp⟩
  · exact absurd hempty hne
  · rw [hm] at hnone
    cases hnone
  · obtain rfl : e = e' := Option.some.inj (hm.symm.trans hsome)
    exact hp

/-- A DSTEP that finds a written request dispatches it (41_dispatch.md R185). -/
theorem dstep_headEntry (c : Fin 4) (s : State) (e : Entry) (hr : s.disp.phase = .run)
    (hne : s.rmq[reqQueue c].wp ≠ s.rmq[reqQueue c].rp) (he : s.headEntry (reqQueue c) = some e) :
    dstep c s = .next (dispatchRequest c e (s.taken (reqQueue c))) := by
  simp [dstep, hr, tryPop_headEntry _ s e hne he]

/-- The command that a code names is the dispatch of a request with that code, whichever of the six it is (30_encoding.md R126). -/
theorem exec_decodeCommand (c : Fin 4) (code : Byte) (p : Payload) (i : Instr) (s : State) (h : decodeCommand c code p = .ok i) :
    exec i s = .next (dispatchRequest c (requestEntry code p) s) := by
  have run : ∀ (n : Byte) (j : Instr), code.toNat = n.toNat → (Except.ok j : Except DecodeError Instr) = .ok i →
      exec j s = .next (dispatchRequest c (requestEntry n p) s) → exec i s = .next (dispatchRequest c (requestEntry code p) s) := by
    intro n j hn hj hx
    cases hj
    rw [hx, BitVec.eq_of_toNat_eq hn]
  unfold decodeCommand at h
  split at h
  case h_1 hc => exact run 0x12 _ hc h rfl
  case h_2 hc => exact run 0x21 _ hc h rfl
  case h_3 hc => exact run 0x56 _ hc h rfl
  case h_4 hc => exact run 0xAC _ hc h rfl
  case h_5 hc => exact run 0xC0 _ hc h rfl
  case h_6 hc => exact run 0xDE _ hc h rfl
  case h_7 => cases h

/-- The command that a request entry decodes to is the dispatch of that entry. -/
theorem exec_decodeEntry (c : Fin 4) (e : Entry) (i : Instr) (s : State) (h : decodeEntry c e = .ok i) :
    exec i s = .next (dispatchRequest c e s) := by
  rw [exec_decodeCommand c _ _ i s h, requestEntry_code_payload]

/-- A DSTEP that finds a written request of a named code runs the command it decodes to. -/
theorem dstep_decoded (c : Fin 4) (s : State) (e : Entry) (i : Instr) (hr : s.disp.phase = .run)
    (hne : s.rmq[reqQueue c].wp ≠ s.rmq[reqQueue c].rp) (he : s.headEntry (reqQueue c) = some e) (hd : decodeEntry c e = .ok i) :
    dstep c s = exec i (s.taken (reqQueue c)) := by
  rw [dstep_headEntry c s e hr hne he, exec_decodeEntry c e i _ hd]

/-- Settles O54: the port operation by `step`'s equation, the request by `dstep_decoded`, the idle LOOP by what `takeInput` takes then. -/
theorem stepRunsDecoded : Obligations.StepRunsDecoded := by
  unfold Obligations.StepRunsDecoded
  refine ⟨?port, ?first, ?request, ?nothing⟩
  case port => exact step_of_port
  case first =>
    intro s a bytes rest hl hi
    exact takeInput_idle_cons s (.port a bytes) rest hl hi
  case request =>
    intro s u c e i ht hl hr hne he hd
    rw [step_of_pass s u c ht hl, dstep_decoded c u e i hr hne he hd]
  case nothing =>
    intro s hl hi
    exact step_of_quiet s s (takeInput_idle_nil s hl hi)

end Sys2Proof.Machine
end

section
/-! PROOF. What a transaction is made of: the elementary changes of the state, and that every step is a sequence of them, a RESET, or a stop at an unwritten slot. What every step keeps is then shown for each elementary change once. -/

namespace Sys2Proof.Machine

/-! ## The elementary changes -/

/-- A transaction that takes a request is open: the phase is RUN, or LOOP's place is one that it reaches only in RUN (41_dispatch.md R185, R190). -/
def PassOpen (s : State) : Prop := s.disp.phase = .run ∨ ∃ c, s.loop = .pass c ∨ s.loop = .heldDispatch c

/-- A place of LOOP inside a hold (42_cm2dm.md R260). -/
def HoldPlace (p : LoopPos) : Prop := p = .heldCheck ∨ ∃ c, p = .heldDispatch c

/-- The elementary changes of a state: what one shared operation writes, under the tests that the transactions make before it. -/
inductive Change (s : State) : State → Prop
  /-- The model's own fields: inputs, outcome, external state. -/
  | outside (ib : List Input) (o : Option (Agent × TxnOutcome)) (g : Nat) : Change s { s with inbox := ib, out := o, ext := g }
  | refused : Change s { s with refused := true }
  | fault (f : FaultRec) : Change s (s.note f)
  | emit (es : List Event) : Change s (s.emitAll es)
  | store {t : State} (q : Fin 8) (e : Entry) (h : tryPush q e s = some t) : Change s t
  | take (q : Fin 8) (h : s.rmq[q].wp ≠ s.rmq[q].rp) : Change s (s.taken q)
  | register (tbl : Vector (Option HandlerName) 256) (h : s.disp.phase = .init) : Change s { s with disp := { s.disp with table := tbl } }
  | start : Change s { s with disp := { s.disp with phase := .run } }
  | post (k : Byte) (v : Word) (h : (k ≠ 0 ∧ k.toNat < s.cfg.kindCount) ∨ k = s.cfg.kindId.ping) : Change s (setPending k v s)
  | select : Change s (selectNext s)
  | retire : Change s (clearInflight s)
  | receive (r : Rx) : Change s { s with rx := r }
  | give : Change s (semGive s)
  | takeSem (h : s.tmr.sem ≠ 0) : Change s (takeSem s)
  | startReset (arg : Word) (h : resetIdle s = true) : Change s (startReset arg s)
  | wdSet (d : Word) : Change s (wdSet d s)
  | heartbeat (d : Word) : Change s (heartbeat d s)
  | rstTick (h : s.tmr.rstPending = true) : Change s (rstTick s)
  | wdTick (free : Bool) (h : s.tmr.wdArmed = true) (hf : free = true → resetIdle s = true) : Change s (wdTick free s)
  | pingTick (h : s.tmr.pingWait = true) : Change s (pingTick s)
  | harvest (h : Harvest) : Change s { s with noc := { s.noc with harvValid := true, harv := h } }
  | compute (op : Byte) : Change s (computeTables op s)
  | clear : Change s (clearTables s)
  | initDone : Change s { s with gate := ⟨false⟩ }
  /-- LOOP, which does not hold, moves to a place outside a hold; a pass is open only after START. -/
  | move (p : LoopPos) (h : held s = false) (hp : ¬HoldPlace p) (hr : ∀ c, p = .pass c → PassOpen s) : Change s { s with loop := p }
  /-- LOOP, which does not hold, starts to hold in a check. -/
  | hold (p : LoopPos) (h : held s = false) (hp : HoldPlace p) (hr : ∀ c, p = .heldDispatch c → PassOpen s) :
      Change s { armPing s with loop := p }

/-- From `s` to `t` by elementary changes. -/
def Changes : State → State → Prop := Relation.ReflTransGen Change

theorem Changes.refl {s : State} : Changes s s := Relation.ReflTransGen.refl

theorem Changes.tail {s t u : State} (h : Changes s t) (c : Change t u) : Changes s u := Relation.ReflTransGen.tail h c

theorem Changes.single {s t : State} (c : Change s t) : Changes s t := Relation.ReflTransGen.single c

theorem Changes.trans {s t u : State} (h : Changes s t) (k : Changes t u) : Changes s u := Relation.ReflTransGen.trans h k

/-- What every elementary change keeps, a sequence of them keeps. -/
theorem Changes.keeps {P : State → Prop} (h : ∀ u v, Change u v → P u → P v) {s t : State} (c : Changes s t) (hs : P s) : P t := by
  induction c with
  | refl => exact hs
  | tail _ c ih => exact h _ _ c ih

/-! ## How a transaction ends -/

theorem Changes.finish {s t : State} (h : Changes s t) (a : Agent) (r : Result) : Changes s (t.finish a r) :=
  h.tail (.outside t.inbox _ t.ext)

theorem Changes.emit {s t : State} (h : Changes s t) (e : Event) : Changes s (t.emit e) := h.tail (.emit [e])

theorem Changes.refuse (a : Agent) (s : State) : Changes s (s.refuse a) :=
  .tail (.single .refused) (.outside s.inbox _ s.ext)

theorem Changes.raise {s t : State} (h : Changes s t) (a : Agent) (f : FaultRec) : Changes s (t.raise a f) :=
  (h.tail (.fault f)).tail (.outside t.inbox _ t.ext)

/-- A change made only under a condition. -/
theorem Changes.ite {s t u : State} (p : Prop) [Decidable p] (ht : p → Changes s t) (hu : ¬p → Changes s u) :
    Changes s (if p then t else u) :=
  iteInduction ht hu

/-- How a transaction that starts in `s` may end: in a state reached by elementary changes, as far as `ok` lets LOOP move; or in the stop of a POP that meets an unwritten slot (10_state.md, opening). -/
inductive Ends (ok : Prop) (s : State) : Host.Outcome State Fault Refusal → Prop
  | next {t : State} (h : ok → Changes s t) : Ends ok s (.next t)
  | stop (q : Fin 8) (hne : s.rmq[q].wp ≠ s.rmq[q].rp) (hn : s.headEntry q = none) :
      Ends ok s (.fault (.unwrittenSlot q.val (s.rmq[q].rp % s.cfg.queueCapacity)))

theorem Ends.mono {ok ok' : Prop} {s : State} {o : Host.Outcome State Fault Refusal} (h : Ends ok s o) (himp : ok' → ok) : Ends ok' s o := by
  cases h with
  | next h => exact .next (fun k => h (himp k))
  | stop q hne hn => exact .stop q hne hn

/-- An end from a state that differs in its inputs only. -/
theorem Ends.of_inbox {ok : Prop} {s : State} {ib : List Input} {o : Host.Outcome State Fault Refusal}
    (h : Ends ok { s with inbox := ib } o) : Ends ok s o := by
  cases h with
  | next h => exact .next (fun k => .trans (.single (.outside ib s.out s.ext)) (h k))
  | stop q hne hn => exact .stop q hne hn

theorem Ends.changes {ok : Prop} {s t : State} (h : Ends ok s (.next t)) (k : ok) : Changes s t := by
  cases h with
  | next h => exact h k

/-- An operation that tests a condition first. -/
theorem Ends.ite {ok : Prop} {s : State} (p : Prop) [Decidable p] {o o' : Host.Outcome State Fault Refusal}
    (h : p → Ends ok s o) (h' : ¬p → Ends ok s o') : Ends ok s (if p then o else o') :=
  iteInduction h h'

/-- The agent's test that every port operation but STAT begins with (30_encoding.md R125). -/
theorem Ends.unless_refused {ok : Prop} {s : State} (p : Prop) [Decidable p] {a : Agent} {o : Host.Outcome State Fault Refusal}
    (h : ¬p → Ends ok s o) : Ends ok s (if p then .next (s.refuse a) else o) :=
  .ite p (fun _ => .next (fun _ => .refuse a s)) h

/-! ## LOOP's place -/

/-- LOOP does not hold, and a request may be taken. -/
def MayDispatch (s : State) : Prop := held s = false ∧ PassOpen s

/-- `held` reads LOOP's place and `ping_wait` only. -/
theorem held_congr {s t : State} (hl : t.loop = s.loop) (hw : t.tmr.pingWait = s.tmr.pingWait) : held t = held s := by
  simp only [held, hl, hw]

theorem MayDispatch.congr {s t : State} (h : MayDispatch s) (hl : t.loop = s.loop) (hw : t.tmr.pingWait = s.tmr.pingWait)
    (hd : t.disp = s.disp) : MayDispatch t := by
  obtain ⟨hh, ho⟩ := h
  refine ⟨(held_congr hl hw).trans hh, ?_⟩
  unfold PassOpen at *
  rwa [hl, hd]

theorem afterDstep_not_hold (c : Fin 4) : ¬HoldPlace (afterDstep c) := by
  unfold HoldPlace afterDstep
  split <;> simp

/-- A DSTEP ends. -/
theorem Changes.endDstep {s t : State} (h : Changes s t) (hm : MayDispatch t) (c : Fin 4) : Changes s (endDstep c t) :=
  (h.tail (.move _ hm.1 (afterDstep_not_hold c) (fun _ _ => hm.2))).finish _ _

/-- A response is pushed or dropped, and the DSTEP ends. -/
theorem Changes.respond {s t : State} (h : Changes s t) (hm : MayDispatch t) (c : Fin 4) (rsp : Entry) : Changes s (respond c rsp t) := by
  cases hp : tryPush (rspQueue c) rsp t with
  | none =>
    have he : Machine.respond c rsp t = Machine.endDstep c (t.emit (.rspDropped c)) := by simp only [Machine.respond, hp, Option.getD_none]
    rw [he]
    exact (h.emit _).endDstep (hm.congr rfl rfl rfl) c
  | some u =>
    have he : Machine.respond c rsp t = Machine.endDstep c u := by simp only [Machine.respond, hp, Option.getD_some]
    obtain ⟨_, _, hu⟩ := tryPush_spec _ _ _ _ hp
    rw [he]
    exact (h.tail (.store _ rsp hp)).endDstep (hm.congr (by rw [hu]) (by rw [hu]) (by rw [hu])) c

/-! ## The shared operations, as changes -/

theorem changes_acceptAck (k : Ack) (s : State) : Changes s (acceptAck k s) := by
  unfold acceptAck
  exact .ite _ (fun _ => .ite _ (fun _ => .tail (.single .retire) .give) (fun _ => .single .retire)) (fun _ => .refl)

theorem changes_logDuplicate (seq : Byte) (s : State) : Changes s (logDuplicate seq s) := by
  unfold logDuplicate
  exact .ite _ (fun _ => .refl) (fun _ => Changes.emit (.single (.receive _)) _)

theorem changes_ownEffect (ids : KindIds) (id : Byte) (d : Word) (s : State) : Changes s (ownEffect ids id d s) := by
  unfold ownEffect
  exact .ite _ (fun _ => .ite _ (fun h => .single (.startReset d h)) (fun _ => .refl))
    (fun _ => .ite _ (fun _ => .single (.wdSet d)) (fun _ => .ite _ (fun _ => .single (.heartbeat d)) (fun _ => .refl)))

theorem changes_kindEffect (id : Byte) (d : Word) (s : State) : Changes s (kindEffect id d s) := by
  unfold kindEffect
  exact .ite _ (fun _ => .refl) (fun _ => (Changes.emit (.single (.receive _)) _).trans (changes_ownEffect _ _ _ _))

theorem changes_receive (m : Record) (s : State) : Changes s (receive m s) := by
  have hack : Changes s (s.emit (.ackOut m.id m.seq)) := .emit .refl _
  unfold receive
  refine .ite _ (fun _ => .finish .refl _ _) (fun _ => Changes.finish (.ite _ (fun _ => ?_) (fun _ => ?_)) _ _)
  · exact hack.trans (changes_logDuplicate _ _)
  · exact (hack.tail (.receive _)).trans (changes_kindEffect _ _ _)

/-- The tests of a TICK read the state as it began; the timers that ran before leave what is tested alone (42_cm2dm.md R250). -/
theorem changes_tickTimers (s : State) : Changes s (tickTimers s) := by
  have hrst : Changes s (if s.tmr.rstPending then rstTick s else s) := .ite _ (fun h => .single (.rstTick h)) (fun _ => .refl)
  have harmed : (if s.tmr.rstPending then rstTick s else s).tmr.wdArmed = s.tmr.wdArmed := by
    split <;> simp [rstTick_eq]
  have hwait : (if s.tmr.rstPending then rstTick s else s).tmr.pingWait = s.tmr.pingWait := by
    split <;> simp [rstTick_eq]
  have hidle : resetIdle s = true → resetIdle (if s.tmr.rstPending then rstTick s else s) = true := by
    intro h
    have hp : s.tmr.rstPending = false := by simp [resetIdle] at h; exact h.1
    simpa [hp] using h
  unfold tickTimers
  extract_lets s1 s2
  have hwd : Changes s1 s2 := .ite _ (fun h => .single (.wdTick _ (harmed.trans h) hidle)) (fun _ => .refl)
  have hwait2 : s2.tmr.pingWait = s.tmr.pingWait := by
    refine Eq.trans ?_ hwait
    simp only [s2]
    split <;> simp [wdTick_eq, s1]
  exact (hrst.trans hwd).trans (.ite _ (fun h => .single (.pingTick (hwait2.trans h))) (fun _ => .refl))

theorem changes_initSteps (n i : Nat) (s : State) : Changes s (initSteps i n s) := by
  induction n generalizing i s with
  | zero => exact .single .initDone
  | succ n ih =>
    have hstep : Changes s ({ s with ext := (Config.initStep i s.ext).2 }.emit (.initStep i (Config.initStep i s.ext).1)) :=
      .emit (.single (.outside s.inbox s.out _)) _
    exact .ite _ (fun _ => hstep.trans (ih _ _)) (fun _ => hstep)

theorem changes_programNodes (s : State) : Changes s (programNodes s) := .single (.emit _)

theorem changes_debugNoc (d : DbgNoc) (s : State) : Changes s (debugNoc d s).2 := by
  unfold debugNoc
  split
  · exact .refl
  · split
    · exact .trans (.single .clear) (changes_programNodes _)
    · exact .trans (.tail (.single (.harvest _)) (.compute _)) (changes_programNodes _)

/-! ## Dispatch -/

/-- `H_PINGDM` up to its response or its hold. -/
theorem changes_pingDmStart (c : Fin 4) (s : State) (hm : MayDispatch s) : Changes s (pingDmStart c s) := by
  have hpost : Changes s (setPending s.cfg.kindId.ping 0 s) := .single (.post _ _ (.inr rfl))
  rcases pingDmStart_cases c s with ⟨hs, he⟩ | ⟨_, he⟩
  · rw [he]
    exact (hpost.tail (.takeSem hs)).respond (hm.congr rfl rfl rfl) c _
  · rw [he]
    have hm1 : MayDispatch (setPending s.cfg.kindId.ping 0 s) := hm.congr rfl rfl rfl
    exact (hpost.tail (.hold _ hm1.1 (.inr ⟨c, rfl⟩) (fun _ _ => hm1.2))).tail (.outside s.inbox _ s.ext)

/-- The dispatch of one request, whatever its code's handler. -/
theorem changes_dispatchRequest (c : Fin 4) (e : Entry) (s : State) (hm : MayDispatch s) : Changes s (dispatchRequest c e s) := by
  have hcall : Changes s (s.emit (.handlerCall (requestCode e))) := .emit .refl _
  have hm1 : MayDispatch (s.emit (.handlerCall (requestCode e))) := hm.congr rfl rfl rfl
  cases ht : vget s.disp.table (requestCode e).toNat none with
  | none =>
    rw [dispatchRequest_none c e s ht]
    exact .respond .refl hm c _
  | some h =>
    rw [dispatchRequest_some c e s h ht]
    cases h with
    | external id => exact (hcall.tail (.outside s.inbox s.out _)).respond (hm.congr rfl rfl rfl) c _
    | pingDM => exact hcall.trans (changes_pingDmStart c _ hm1)
    | debugNoc =>
      have hd := debugNoc_frame (dbgNocFields e) (s.emit (.handlerCall (requestCode e)))
      exact (hcall.trans (changes_debugNoc _ _)).respond (hm1.congr (by rw [hd]) (by rw [hd]) (by rw [hd])) c _

/-- What a POP finds: nothing, an unwritten slot, or the head entry (40_queue.md R152). -/
theorem tryPop_found (q : Fin 8) (s : State) :
    (s.rmq[q].wp = s.rmq[q].rp ∧ tryPop q s = .empty)
      ∨ (s.rmq[q].wp ≠ s.rmq[q].rp ∧ s.headEntry q = none ∧ tryPop q s = .unwritten)
      ∨ ∃ e, s.rmq[q].wp ≠ s.rmq[q].rp ∧ tryPop q s = .got e (s.taken q) := by
  rcases tryPop_cases q s with h | h | ⟨e, hne, _, h⟩
  · exact .inl h
  · exact .inr (.inl h)
  · exact .inr (.inr ⟨e, hne, h⟩)

theorem ends_dstep (c : Fin 4) (s : State) : Ends (held s = false) s (dstep c s) := by
  by_cases hr : s.disp.phase = .run
  · rcases tryPop_found (reqQueue c) s with ⟨_, hp⟩ | ⟨hne, hn, hp⟩ | ⟨e, hne, hp⟩ <;>
      simp only [dstep, hr, ne_eq, not_true_eq_false, if_false, hp]
    · exact .next (fun hh => .endDstep .refl ⟨hh, .inl hr⟩ c)
    · exact .stop (reqQueue c) hne hn
    · exact .next (fun hh => .trans (.single (.take _ hne)) (changes_dispatchRequest c e _ ⟨hh, .inl hr⟩))
  · simp only [dstep, hr, ne_eq, not_false_eq_true, if_true]
    exact .next (fun hh => .raise (.single (.move .idle hh (by simp [HoldPlace]) (by simp))) _ _)

/-- LOOP goes on. -/
theorem ends_loopTurn (s : State) : Ends (held s = false) s (loopTurn s) := by
  cases hl : s.loop with
  | idle =>
    simp only [loopTurn, hl]
    exact .next (fun _ => .refl)
  | pass c =>
    simp only [loopTurn, hl]
    exact ends_dstep c s
  | heldCheck =>
    simp only [loopTurn, hl]
    exact .ite _ (fun _ => .next (fun _ => .refl))
      (fun _ => .next (fun hh => .finish (.single (.move .idle hh (by simp [HoldPlace]) (by simp))) _ _))
  | heldDispatch c =>
    simp only [loopTurn, hl]
    exact .ite _ (fun _ => .next (fun _ => .refl)) (fun _ => .next (fun hh => .respond .refl ⟨hh, .inr ⟨c, .inr hl⟩⟩ c _))

end Sys2Proof.Machine
end

section
/-! PROOF. How every instruction and every step ends: by elementary changes, a RESET, or the one stop of the model. -/

namespace Sys2Proof.Machine

/-! ## The port operations -/

theorem ends_execPush (a : Agent) (q : Byte) (e : Entry) (s : State) : Ends True s (execPush a q e s) := by
  unfold execPush
  split
  · refine .unless_refused _ (fun _ => ?_)
    split
    · exact .next (fun _ => .finish .refl _ _)
    · next hp => exact .next (fun _ => .finish (.single (.store _ e hp)) _ _)
  · exact .next (fun _ => .refuse a s)

theorem ends_execPop (a : Agent) (q : Byte) (s : State) : Ends True s (execPop a q s) := by
  unfold execPop
  split
  · next h =>
    refine .unless_refused _ (fun _ => ?_)
    rcases tryPop_found ⟨q.toNat, h⟩ s with ⟨_, hp⟩ | ⟨hne, hn, hp⟩ | ⟨e, hne, hp⟩ <;> simp only [hp]
    · exact .next (fun _ => .finish .refl _ _)
    · exact .stop _ hne hn
    · exact .next (fun _ => .finish (.single (.take _ hne)) _ _)
  · exact .next (fun _ => .refuse a s)

theorem ends_execStat (a : Agent) (v : StatView) (s : State) : Ends True s (execStat a v s) := by
  unfold execStat
  split
  · exact .next (fun _ => .refuse a s)
  · exact .next (fun _ => .finish .refl _ _)

theorem ends_execReg (a : Agent) (t : Byte) (h : HandlerName) (s : State) : Ends True s (execReg a t h s) := by
  refine .unless_refused _ (fun _ => .ite _ (fun _ => .next (fun _ => .raise .refl _ _)) (fun hi => ?_))
  have hinit : s.disp.phase = .init := Decidable.not_not.mp hi
  exact .ite _ (fun _ => .next (fun _ => .raise .refl _ _)) (fun _ => .next (fun _ => .finish (.single (.register _ hinit)) _ _))

theorem ends_execStart (a : Agent) (s : State) : Ends True s (execStart a s) :=
  .unless_refused _ (fun _ => .next (fun _ => .finish (.single .start) _ _))

theorem ends_execDpass (a : Agent) (s : State) : Ends (a = .loop → held s = false) s (execDpass a s) :=
  .unless_refused _ (fun ha => (ends_dstep 0 s).mono (fun h => h (Decidable.not_not.mp ha)))

theorem ends_execPost (a : Agent) (k : Byte) (v : Word) (s : State) : Ends True s (execPost a k v s) := by
  refine .unless_refused _ (fun _ => .ite _ (fun _ => .next (fun _ => .raise .refl _ _)) (fun hk => ?_))
  rw [not_or, Nat.not_le] at hk
  exact .next (fun _ => .finish (.single (.post k v (.inl hk))) _ _)

theorem ends_execPoll (a : Agent) (s : State) : Ends True s (execPoll a s) :=
  .unless_refused _ (fun _ => .next (fun _ => .finish (.ite _ (fun _ => .refl) (fun _ => .single .select)) _ _))

theorem ends_execReadmsg (a : Agent) (s : State) : Ends True s (execReadmsg a s) :=
  .unless_refused _ (fun _ => .next (fun _ => .finish .refl _ _))

theorem ends_execAckin (a : Agent) (k : Ack) (s : State) : Ends True s (execAckin a k s) :=
  .unless_refused _ (fun _ => .next (fun _ => .finish (changes_acceptAck k s) _ _))

theorem ends_execMsgin (a : Agent) (m : Record) (s : State) : Ends True s (execMsgin a m s) :=
  .unless_refused _ (fun _ => .next (fun _ => changes_receive m s))

theorem ends_execPingchk (a : Agent) (s : State) : Ends (a = .loop → held s = false) s (execPingchk a s) := by
  refine .unless_refused _ (fun ha => .ite _ (fun hs => ?_) (fun _ => ?_))
  · exact .next (fun _ => .finish (.single (.takeSem (fun h => by simp [h] at hs))) _ _)
  · exact .next (fun h => .tail (.single (.hold .heldCheck (h (Decidable.not_not.mp ha)) (.inl rfl) (by simp))) (.outside s.inbox _ s.ext))

theorem ends_execInittick (a : Agent) (s : State) : Ends True s (execInittick a s) :=
  .unless_refused _ (fun _ => .next (fun _ => .finish (.ite _ (fun _ => changes_initSteps 3 0 s) (fun _ => .refl)) _ _))

theorem ends_execTick (a : Agent) (s : State) : Ends True s (execTick a s) :=
  .unless_refused _ (fun _ => .next (fun _ => .finish (changes_tickTimers s) _ _))

theorem ends_execSetharv (a : Agent) (tb : Half) (g : Byte) (se eb : Half) (pe : Byte) (s : State) :
    Ends True s (execSetharv a tb g se eb pe s) :=
  .unless_refused _ (fun _ => .unless_refused _ (fun _ => .next (fun _ => .finish (.single (.harvest _)) _ _)))

theorem ends_execCompute (a : Agent) (s : State) : Ends True s (execCompute a s) :=
  .unless_refused _ (fun _ => .unless_refused _ (fun _ => .next (fun _ => .finish (.single (.compute _)) _ _)))

theorem ends_execProgram (a : Agent) (s : State) : Ends True s (execProgram a s) :=
  .unless_refused _ (fun _ => .next (fun _ => .finish (changes_programNodes s) _ _))

theorem ends_execClear (a : Agent) (s : State) : Ends True s (execClear a s) :=
  .unless_refused _ (fun _ => .next (fun _ => .finish (.single .clear) _ _))

/-! ## Every instruction -/

/-- What a transaction needs of LOOP's place: LOOP's own operation starts outside a hold, a command runs in an open pass (41_dispatch.md R185; 42_cm2dm.md R260). -/
def MayStart (i : Instr) (s : State) : Prop :=
  (sourceOf i = .port .loop → held s = false) ∧ ((∃ c, sourceOf i = .request c) → MayDispatch s)

/-- A command is the dispatch of its request. -/
theorem ends_command {i : Instr} {s : State} (c : Fin 4) (e : Entry) (hi : sourceOf i = .request c) :
    Ends (MayStart i s) s (.next (dispatchRequest c e s)) :=
  .next (fun h => changes_dispatchRequest c e s (h.2 ⟨c, hi⟩))

/-- A kind is the receipt of its record. -/
theorem ends_kind {ok : Prop} (m : Record) (s : State) : Ends ok s (.next (receive m s)) := .next (fun _ => changes_receive m s)

/-- How every instruction ends. -/
theorem ends_exec (i : Instr) (s : State) : Ends (MayStart i s) s (exec i s) := by
  cases i with
  | push a q e => exact (ends_execPush a q e s).mono (fun _ => trivial)
  | pop a q => exact (ends_execPop a q s).mono (fun _ => trivial)
  | stat a v => exact (ends_execStat a v s).mono (fun _ => trivial)
  | reg a t h => exact (ends_execReg a t h s).mono (fun _ => trivial)
  | start a => exact (ends_execStart a s).mono (fun _ => trivial)
  | dpass a => exact (ends_execDpass a s).mono (fun h ha => h.1 (by rw [ha]; rfl))
  | post a k v => exact (ends_execPost a k v s).mono (fun _ => trivial)
  | poll a => exact (ends_execPoll a s).mono (fun _ => trivial)
  | readmsg a => exact (ends_execReadmsg a s).mono (fun _ => trivial)
  | ackin a k => exact (ends_execAckin a k s).mono (fun _ => trivial)
  | msgin a m => exact (ends_execMsgin a m s).mono (fun _ => trivial)
  | pingchk a => exact (ends_execPingchk a s).mono (fun h ha => h.1 (by rw [ha]; rfl))
  | inittick a => exact (ends_execInittick a s).mono (fun _ => trivial)
  | tick a => exact (ends_execTick a s).mono (fun _ => trivial)
  | setharv a tb g se eb pe => exact (ends_execSetharv a tb g se eb pe s).mono (fun _ => trivial)
  | compute a => exact (ends_execCompute a s).mono (fun _ => trivial)
  | program a => exact (ends_execProgram a s).mono (fun _ => trivial)
  | clear a => exact (ends_execClear a s).mono (fun _ => trivial)
  | setVoltage c p | powerSetting c p | triggerReset c p | forceFanSpeed c p | pingDM c p | debugNocTranslation c p =>
    exact ends_command c _ rfl
  | nullMsg seq d | resetReq seq d | ping seq d | fanSpeedUpdate seq d | ready seq d | autoResetTimeoutUpdate seq d
  | heartbeatUpdate seq d | forcedFanSpeedUpdate seq d | pingV2 seq d => exact ends_kind _ s

/-! ## What a port's bytes decode to -/

/-- An operation without operands decodes to itself or to nothing. -/
theorem decodeBare_eq {i j : Instr} {bs : List Byte} (h : decodeBare i bs = .ok j) : j = i := by
  cases bs with
  | nil => exact (Except.ok.inj h).symm
  | cons b bs => cases h

/-- What an operand decoder's result is wrapped in decides where the instruction arrives. -/
theorem sourceOf_map {α : Type} {f : α → Instr} {src : Source} {r : Except DecodeError α} {i : Instr} (h : r.map f = .ok i)
    (hf : ∀ x, sourceOf (f x) = src) : sourceOf i = src := by
  cases r with
  | error e => cases h
  | ok x =>
    rw [← Except.ok.inj h]
    exact hf x

/-- What arrives at an agent's port decodes to a port operation of that agent (30_encoding.md R132). -/
theorem sourceOf_decodePort {a : Agent} {bs : List Byte} {i : Instr} (h : decodePort a bs = .ok i) : sourceOf i = .port a := by
  have bare : ∀ {j : Instr} {ops : List Byte}, sourceOf j = .port a → decodeBare j ops = .ok i → sourceOf i = .port a := by
    intro j ops hj hb
    rw [decodeBare_eq hb, hj]
  unfold decodePort at h
  split at h
  · cases h
  · split at h
    case h_1 =>
      unfold decodePush at h
      (repeat' split at h) <;> cases h
      rfl
    case h_2 =>
      unfold decodePop at h
      (repeat' split at h) <;> cases h
      rfl
    case h_3 =>
      unfold decodeStat at h
      split at h
      · exact sourceOf_map h (fun _ => rfl)
      · cases h
    case h_4 =>
      unfold decodeReg at h
      split at h <;> cases h
      rfl
    case h_5 => exact bare rfl h
    case h_6 => exact bare rfl h
    case h_7 =>
      unfold decodePost at h
      split at h <;> cases h
      rfl
    case h_8 => exact bare rfl h
    case h_9 => exact bare rfl h
    case h_10 => exact sourceOf_map h (fun _ => rfl)
    case h_11 => exact sourceOf_map h (fun _ => rfl)
    case h_12 => exact bare rfl h
    case h_13 => exact bare rfl h
    case h_14 => exact bare rfl h
    case h_15 =>
      unfold decodeSetharv at h
      split at h <;> cases h
      rfl
    case h_16 => exact bare rfl h
    case h_17 => exact bare rfl h
    case h_18 => exact bare rfl h
    case h_19 => cases h

/-! ## Every step -/

/-- How every step ends; a RESET is described by `blockReset` (`step_of_reset`). -/
theorem ends_step (s : State) : Ends (NoReset s) s (step s) := by
  rcases takeInput_cases s with ⟨ib, g, h⟩ | ⟨ib, h, hr⟩ | ⟨ib, a, bytes, h, hl⟩ | ⟨ib, h⟩
  · rw [step_of_quiet s _ h]
    exact .next (fun _ => .single (.outside ib s.out g))
  · rw [step_of_loopGoes s _ h]
    exact .of_inbox ((ends_loopTurn _).mono (fun _ => ((loopReady_iff s).mp hr).2))
  · cases hd : decode s.cfg.kindId (.port a) bytes with
    | ok i =>
      rw [step_of_port s _ a bytes i h hd]
      have hsrc : sourceOf i = .port a := sourceOf_decodePort hd
      refine .of_inbox ((ends_exec i _).mono (fun _ => ⟨fun hi => ?_, fun ⟨c, hc⟩ => ?_⟩))
      · exact held_idle _ (hl (by rw [hsrc] at hi; exact Source.port.inj hi))
      · rw [hsrc] at hc
        cases hc
    | error err =>
      simp only [step, h, hd]
      exact .of_inbox (.next (fun _ => .refuse a _))
  · simp only [step, h]
    exact .next (fun hn => absurd h (hn _))

theorem step_of_reset (s u : State) (h : takeInput s = .reset u) : step s = .next (blockReset u) := by
  simp only [step, h]

/-- Every next state is reached by elementary changes, or by a RESET that leaves the parameters and the history as they are (70_reset_and_hazards.md R370). -/
theorem step_cases {s t : State} (h : step s = .next t) : Changes s t ∨ ∃ ib, t = blockReset { s with inbox := ib } := by
  by_cases hr : ∃ u, takeInput s = .reset u
  · obtain ⟨u, hu⟩ := hr
    rcases takeInput_cases s with ⟨_, _, h'⟩ | ⟨_, h', _⟩ | ⟨_, _, _, h', _⟩ | ⟨ib, h'⟩ <;> rw [hu] at h' <;> cases h'
    exact .inr ⟨ib, (Host.Outcome.next.inj ((step_of_reset s _ hu).symm.trans h)).symm⟩
  · have he := ends_step s
    rw [h] at he
    exact .inl (he.changes (fun u hu => hr ⟨u, hu⟩))

end Sys2Proof.Machine
end

section
/-! PROOF. What no step but a RESET takes back (O55), what no step at all drops (O56), and the one stop of the model (O9). -/

namespace Sys2Proof.Machine

/-! ## Sticky state -/

/-- From `s` to `t` nothing sticky was taken back: the fault set and the history grew, no latch fell, a running table is as it was, and the parameters are the same (10_state.md R48, R50, R53 to R56; 41_dispatch.md R194). -/
structure Onward (s t : State) : Prop where
  fault : ∀ f ∈ s.fault, f ∈ t.fault := by exact fun _ h => h
  refused : s.refused = true → t.refused = true := by exact id
  rstOut : s.tmr.rstOut = true → t.tmr.rstOut = true := by exact id
  violated : s.noc.precondViolated = true → t.noc.precondViolated = true := by exact id
  gate : s.gate.needsInit = false → t.gate.needsInit = false := by exact id
  harvest : s.noc.harvValid = true → t.noc.harvValid = true := by exact id
  run : s.disp.phase = .run → t.disp.phase = .run ∧ t.disp.table = s.disp.table := by exact fun h => ⟨h, rfl⟩
  events : s.events <+: t.events := by exact List.prefix_rfl
  cfg : t.cfg = s.cfg := by rfl

theorem Onward.refl (s : State) : Onward s s := {}

theorem Onward.trans {s t u : State} (h : Onward s t) (k : Onward t u) : Onward s u where
  fault f hf := k.fault f (h.fault f hf)
  refused hs := k.refused (h.refused hs)
  rstOut hs := k.rstOut (h.rstOut hs)
  violated hs := k.violated (h.violated hs)
  gate hs := k.gate (h.gate hs)
  harvest hs := k.harvest (h.harvest hs)
  run hs := by
    obtain ⟨hp, ht⟩ := h.run hs
    obtain ⟨hp', ht'⟩ := k.run hp
    exact ⟨hp', ht'.trans ht⟩
  events := h.events.trans k.events
  cfg := k.cfg.trans h.cfg

/-- The tables that COMPUTE leaves (43_noc.md R275, R287). -/
theorem computeTables_noc (op : Byte) (s : State) : (computeTables op s).noc = { s.noc with
    ring0 := drawClasses s.cfg.geo s.draws 0 (violatedClasses s.cfg s.noc.harv) (computedTable s.cfg.geo s.cfg.fixedNodes s.noc.harv)
    ring1 := drawClasses s.cfg.geo s.draws 1 (violatedClasses s.cfg s.noc.harv) (mirror (computedTable s.cfg.geo s.cfg.fixedNodes s.noc.harv))
    precondViolated := s.noc.precondViolated || !(violatedClasses s.cfg s.noc.harv).isEmpty } := by
  unfold computeTables
  dsimp only
  rw [foldl_note_frame]

/-- The records that COMPUTE notes are added one by one. -/
theorem foldl_note_keeps {P : List FaultRec → Prop} (hP : ∀ f fs, P fs → P (addFault f fs)) (op : Byte) (cs : List TileClass) (s : State)
    (hs : P s.fault) : P (cs.foldl (fun s c => s.note ⟨.precond, op, classInfo c⟩) s).fault := by
  induction cs generalizing s with
  | nil => exact hs
  | cons c cs ih => exact ih _ (hP _ _ hs)

theorem computeTables_fault_keeps {P : List FaultRec → Prop} (hP : ∀ f fs, P fs → P (addFault f fs)) (op : Byte) (s : State)
    (hs : P s.fault) : P (computeTables op s).fault :=
  foldl_note_keeps hP op _ _ hs

/-- No elementary change takes back sticky state. -/
theorem Onward.of_change {s t : State} (c : Change s t) : Onward s t := by
  cases c with
  | outside => exact {}
  | refused => exact { refused := fun _ => rfl }
  | fault f => exact { fault := subset_addFault f s.fault }
  | emit es => exact { events := List.prefix_append _ _ }
  | store q e h =>
    obtain ⟨_, _, ht⟩ := tryPush_spec _ _ _ _ h
    rw [ht]
    exact {}
  | take => exact {}
  | register tbl h => exact { run := fun hr => by rw [h] at hr; cases hr }
  | start => exact { run := fun _ => ⟨rfl, rfl⟩ }
  | post => exact {}
  | select => rw [selectNext_frame]; exact {}
  | retire => exact {}
  | receive => exact {}
  | give =>
    rw [semGive_eq]
    exact { rstOut := fun h => by dsimp only; split <;> exact h, events := List.prefix_append _ _ }
  | takeSem => exact {}
  | startReset => exact {}
  | wdSet d => rw [wdSet_eq]; exact {}
  | heartbeat d => rw [heartbeat_eq]; exact {}
  | rstTick =>
    rw [rstTick_eq]
    exact { rstOut := fun h => by dsimp only; split <;> trivial, events := List.prefix_append _ _ }
  | wdTick => rw [wdTick_eq]; exact {}
  | pingTick => rw [pingTick_eq]; exact {}
  | harvest => exact { harvest := fun _ => rfl }
  | compute op =>
    have hfault : ∀ f ∈ s.fault, f ∈ (computeTables op s).fault := fun f hf =>
      computeTables_fault_keeps (P := fun fs => f ∈ fs) (fun g fs => subset_addFault g fs f) op s hf
    have hnoc := computeTables_noc op s
    have hframe := computeTables_frame op s
    exact {
      fault := hfault
      violated := fun h => by rw [hnoc, h]; rfl
      harvest := fun h => by rw [hnoc, h]
      refused := fun h => by rw [hframe, h]
      rstOut := fun h => by rw [hframe, h]
      gate := fun h => by rw [hframe, h]
      run := fun h => by rw [hframe]; exact ⟨h, rfl⟩
      events := by rw [hframe]
      cfg := by rw [hframe] }
  | clear => exact {}
  | initDone => exact { gate := fun _ => rfl }
  | move => exact {}
  | hold => exact {}

theorem Changes.onward {s t : State} (c : Changes s t) : Onward s t :=
  c.keeps (P := Onward s) (fun _ _ c h => h.trans (.of_change c)) (.refl s)

/-- Settles O55: a step without RESET is a sequence of elementary changes, and none of them takes back sticky state. -/
theorem latchesHoldUntilReset : Obligations.LatchesHoldUntilReset := by
  unfold Obligations.LatchesHoldUntilReset
  intro s t hn h
  have he := ends_step s
  rw [h] at he
  have ho := (he.changes hn).onward
  exact ⟨ho.fault, ho.refused, ho.rstOut, ho.violated, ho.gate, ho.harvest, ho.run⟩

/-- Settles O56: elementary changes only append events and leave the parameters alone, and so does RESET. -/
theorem eventsOnlyGrow : Obligations.EventsOnlyGrow := by
  unfold Obligations.EventsOnlyGrow
  intro s t h
  rcases step_cases h with hc | ⟨ib, rfl⟩
  · exact ⟨hc.onward.events, hc.onward.cfg⟩
  · exact ⟨List.prefix_rfl, rfl⟩

/-! ## The one stop -/

/-- Where an operation may stop, and how. -/
theorem Ends.fault_cases {ok : Prop} {s : State} {f : Fault} (h : Ends ok s (.fault f)) :
    ∃ q : Fin 8, s.rmq[q].wp ≠ s.rmq[q].rp ∧ s.headEntry q = none ∧ f = .unwrittenSlot q.val (s.rmq[q].rp % s.cfg.queueCapacity) := by
  cases h with
  | stop q hne hn => exact ⟨q, hne, hn, rfl⟩

theorem Ends.not_refused {ok : Prop} {s : State} {r : Refusal} : ¬Ends ok s (.refused r) := nofun

/-- A POP of an unwritten slot. -/
theorem tryPop_unwritten (q : Fin 8) (s : State) (hne : s.rmq[q].wp ≠ s.rmq[q].rp) (hn : s.headEntry q = none) :
    tryPop q s = .unwritten := by
  have hm : memRead s.mem q (slotOf s.cfg.queueCapacity s.rmq[q].rp) = none := hn
  simp only [tryPop, if_neg hne, hm]

/-- A DSTEP in RUN whose channel's next slot is unwritten stops there. -/
theorem dstep_unwritten (c : Fin 4) (s : State) (hr : s.disp.phase = .run) (hne : s.rmq[reqQueue c].wp ≠ s.rmq[reqQueue c].rp)
    (hn : s.headEntry (reqQueue c) = none) :
    dstep c s = .fault (.unwrittenSlot c.val (s.rmq[reqQueue c].rp % s.cfg.queueCapacity)) := by
  simp only [dstep, hr, ne_eq, not_true_eq_false, if_false, tryPop_unwritten _ s hne hn]
  rfl

/-- A queue's number as an operand byte. -/
theorem queueByte_toNat (q : Fin 8) : (BitVec.ofNat 8 q.val : Byte).toNat = q.val := by
  rw [BitVec.toNat_ofNat]
  omega

theorem execPop_unwritten (q : Fin 8) (s : State) (hne : s.rmq[q].wp ≠ s.rmq[q].rp) (hn : s.headEntry q = none) :
    execPop (consumer q) (BitVec.ofNat 8 q.val) s = .fault (.unwrittenSlot q.val (s.rmq[q].rp % s.cfg.queueCapacity)) := by
  have hq : ∀ h, (⟨(BitVec.ofNat 8 q.val : Byte).toNat, h⟩ : Fin 8) = q := fun h => Fin.ext (queueByte_toNat q)
  have hlt : (BitVec.ofNat 8 q.val : Byte).toNat < 8 := by rw [queueByte_toNat]; exact q.isLt
  unfold execPop
  rw [dif_pos hlt]
  simp only [hq, ne_eq, not_true_eq_false, if_false, tryPop_unwritten q s hne hn]
  rfl

/-- Settles O9: the three operations that take an entry, by `tryPop_unwritten`; and no other stop, by how every instruction and every step ends. -/
theorem unwrittenSlotStops : Obligations.UnwrittenSlotStops := by
  unfold Obligations.UnwrittenSlotStops
  intro s
  refine ⟨?pop, ?dpass, ?pass, ?exec, ?step, ?refused⟩
  case pop => exact fun q hne hn => execPop_unwritten q s hne hn
  case dpass => exact fun hr hne hn => dstep_unwritten 0 s hr hne hn
  case pass =>
    intro u c ht hl hr hne hn
    rw [step_of_pass s u c ht hl]
    obtain ⟨_, _, h⟩ | ⟨ib, h, _⟩ | ⟨_, _, _, h, _⟩ | ⟨_, h⟩ := takeInput_cases s <;> rw [ht] at h <;> cases h
    exact dstep_unwritten c _ hr hne hn
  case exec =>
    intro i f h
    have he := ends_exec i s
    rw [h] at he
    exact he.fault_cases
  case step =>
    intro f h
    have he := ends_step s
    rw [h] at he
    exact he.fault_cases
  case refused =>
    intro r
    constructor
    · intro i h
      have he := ends_exec i s
      rw [h] at he
      exact he.not_refused
    · intro h
      have he := ends_step s
      rw [h] at he
      exact he.not_refused

end Sys2Proof.Machine
end

section
/-! PROOF. The invariant: it holds at power-on (O58), every elementary change and so every step keeps it (O59), and no step from it stops (O60). -/

namespace Sys2Proof.Machine

/-! ## Queues -/

/-- The occupancy of pointers in range, without the modulus (10_state.md R34). -/
theorem occupancy_eq (cap wp rp : Nat) (hw : wp < 2 * cap) (hr : rp < 2 * cap) :
    occupancy cap ⟨wp, rp⟩ = if rp ≤ wp then wp - rp else wp + 2 * cap - rp := by
  unfold occupancy
  dsimp only
  split
  · rw [Int.emod_eq_of_lt (by omega) (by omega)]
    omega
  · rw [← Int.add_emod_right, Int.emod_eq_of_lt (by omega) (by omega)]
    omega

/-- The next pointer, without the modulus. -/
theorem nextPtr_eq (cap p : Nat) (hp : p < 2 * cap) : nextPtr cap p = if p + 1 = 2 * cap then 0 else p + 1 := by
  unfold nextPtr
  split
  · next h => rw [h, Nat.mod_self]
  · exact Nat.mod_eq_of_lt (by omega)

/-- An accepted push adds one to the occupancy (40_queue.md R151). -/
theorem occupancy_push (cap wp rp : Nat) (hw : wp < 2 * cap) (hr : rp < 2 * cap) (hroom : occupancy cap ⟨wp, rp⟩ < cap) :
    nextPtr cap wp < 2 * cap ∧ occupancy cap ⟨nextPtr cap wp, rp⟩ = occupancy cap ⟨wp, rp⟩ + 1 := by
  have hn : nextPtr cap wp < 2 * cap := Nat.mod_lt _ (by omega)
  refine ⟨hn, ?_⟩
  rw [occupancy_eq cap wp rp hw hr] at *
  rw [occupancy_eq cap _ rp hn hr, nextPtr_eq cap wp hw]
  split_ifs at * <;> omega

/-- A pop takes one from the occupancy (40_queue.md R152). -/
theorem occupancy_pop (cap wp rp : Nat) (hw : wp < 2 * cap) (hr : rp < 2 * cap) (hne : wp ≠ rp) :
    nextPtr cap rp < 2 * cap ∧ occupancy cap ⟨wp, nextPtr cap rp⟩ + 1 = occupancy cap ⟨wp, rp⟩ := by
  have hn : nextPtr cap rp < 2 * cap := Nat.mod_lt _ (by omega)
  refine ⟨hn, ?_⟩
  rw [occupancy_eq cap wp rp hw hr, occupancy_eq cap wp _ hw hn, nextPtr_eq cap rp hr]
  split_ifs <;> omega

/-- After a pop the `j`-th slot is what was the one after it. -/
theorem slotOf_nextPtr (cap p j : Nat) : slotOf cap (nextPtr cap p + j) = slotOf cap (p + (j + 1)) := by
  have hd : cap ∣ 2 * cap := Nat.dvd_mul_left _ _
  unfold slotOf nextPtr
  rw [Nat.add_mod, Nat.mod_mod_of_dvd _ hd, ← Nat.add_mod]
  congr 1
  omega

/-- The slot behind the occupied ones is the one that the write pointer names. -/
theorem slotOf_occupancy (cap wp rp : Nat) (hw : wp < 2 * cap) (hr : rp < 2 * cap) :
    slotOf cap (rp + occupancy cap ⟨wp, rp⟩) = slotOf cap wp := by
  rw [occupancy_eq cap wp rp hw hr]
  unfold slotOf
  split
  · congr 1
    omega
  · rw [show rp + (wp + 2 * cap - rp) = wp + 2 * cap by omega, Nat.add_mul_mod_self_right]

/-- A slot after an accepted push holds the new entry or what it held. -/
theorem StoredEntry.memRead_cases {q : Fin 8} {e : Entry} {s t : State} (h : StoredEntry q e s t) (r : Fin 8) (i : Nat) :
    memRead t.mem r i = some e ∨ memRead t.mem r i = memRead s.mem r i := by
  obtain ⟨hsame, hother, _, _⟩ := h
  by_cases hi : (q, s.rmq[q].wp % s.cfg.queueCapacity) = (r, i)
  · simp only [Prod.mk.injEq] at hi
    obtain ⟨rfl, rfl⟩ := hi
    exact .inl hsame
  · refine .inr ?_
    unfold memRead
    rw [readBytes_congr t.mem s.mem 32 (slotAddr r i)]
    intro k hk
    have := slotAddr_disjoint _ _ _ _ hi
    exact hother _ (by omega)

/-- What the invariant says of one queue. -/
def QueueOk (s : State) (q : Fin 8) : Prop := QueueBounded s q ∧ OccupiedWritten s q

/-- A queue with the same pointers, whose occupied slots still hold an entry. -/
theorem QueueOk.congr {s t : State} {q : Fin 8} (h : QueueOk s q) (hp : t.rmq[q] = s.rmq[q]) (hc : t.cfg = s.cfg)
    (hm : ∀ i, (memRead s.mem q i).isSome → (memRead t.mem q i).isSome) : QueueOk t q := by
  obtain ⟨hb, hw⟩ := h
  unfold QueueOk QueueBounded OccupiedWritten pendingSlot State.occ at *
  rw [hp, hc]
  exact ⟨hb, fun j hj => hm _ (hw j hj)⟩

/-- An accepted push keeps every queue well-formed: the slot that becomes occupied is the one it wrote (40_queue.md R151). -/
theorem StoredEntry.queueOk {q : Fin 8} {e : Entry} {s t : State} (h : StoredEntry q e s t) (hc : t.cfg = s.cfg)
    (hroom : s.occ q < s.cfg.queueCapacity) (hs : ∀ r, QueueOk s r) (r : Fin 8) : QueueOk t r := by
  have hsome : ∀ i, (memRead s.mem r i).isSome → (memRead t.mem r i).isSome := by
    intro i hi
    rcases h.memRead_cases r i with hn | hn <;> rw [hn]
    · rfl
    · exact hi
  obtain ⟨hnew, _, hq, hothers⟩ := h
  by_cases hr : r = q
  · subst hr
    obtain ⟨⟨hwp, hrp, _⟩, hwritten⟩ := hs r
    obtain ⟨hn, ho⟩ := occupancy_push _ _ _ hwp hrp hroom
    have hocc : t.occ r = s.occ r + 1 := by
      unfold State.occ
      rw [hq, hc]
      exact ho
    refine ⟨⟨?_, ?_, ?_⟩, fun j hj => ?_⟩
    · rw [hq, hc]; exact hn
    · rw [hq, hc]; exact hrp
    · rw [hocc, hc]; exact hroom
    · have hslot : pendingSlot t r j = pendingSlot s r j := by
        unfold pendingSlot
        rw [hq, hc]
      rw [hslot]
      rcases Nat.lt_succ_iff_lt_or_eq.mp (hocc ▸ hj) with hj | rfl
      · exact hsome _ (hwritten j hj)
      · have hlast : pendingSlot s r (s.occ r) = s.rmq[r].wp % s.cfg.queueCapacity := slotOf_occupancy _ _ _ hwp hrp
        rw [hlast, hnew]
        rfl
  · exact (hs r).congr (hothers r hr) hc hsome

/-- A pop keeps every queue well-formed: what stays occupied was occupied (40_queue.md R152). -/
theorem QueueOk.taken {s : State} (hs : ∀ r, QueueOk s r) (q : Fin 8) (hne : s.rmq[q].wp ≠ s.rmq[q].rp) (r : Fin 8) :
    QueueOk (s.taken q) r := by
  by_cases hr : r = q
  · subst hr
    have hq : (s.taken r).rmq[r] = ⟨s.rmq[r].wp, nextPtr s.cfg.queueCapacity s.rmq[r].rp⟩ := by
      unfold State.taken
      simp [nextPtr]
    obtain ⟨⟨hwp, hrp, hle⟩, hwritten⟩ := hs r
    obtain ⟨hn, ho⟩ := occupancy_pop _ _ _ hwp hrp hne
    have hocc : (s.taken r).occ r + 1 = s.occ r := by
      unfold State.occ
      rw [hq]
      exact ho
    refine ⟨⟨?_, ?_, ?_⟩, fun j hj => ?_⟩
    · rw [hq]; exact hwp
    · rw [hq]; exact hn
    · exact Nat.le_of_succ_le (hocc.trans_le hle)
    · have hslot : pendingSlot (s.taken r) r j = pendingSlot s r (j + 1) := by
        unfold pendingSlot
        rw [hq]
        exact slotOf_nextPtr _ _ _
      rw [hslot]
      exact hwritten (j + 1) (by omega)
  · exact (hs r).congr (rmq_set_other _ _ _ _ hr) rfl (fun _ => id)

/-- A queue with an entry in it reads its head (70_reset_and_hazards.md R372). -/
theorem QueueOk.headEntry {s : State} {q : Fin 8} (h : QueueOk s q) (hne : s.rmq[q].wp ≠ s.rmq[q].rp) : s.headEntry q ≠ none := by
  obtain ⟨⟨hwp, hrp, _⟩, hwritten⟩ := h
  have hpos : 0 < s.occ q := (Nat.succ_pos _).trans_eq (occupancy_pop _ _ _ hwp hrp hne).2
  exact Option.isSome_iff_ne_none.mp (hwritten 0 hpos)

/-! ## The transmit half -/

/-- A kind in 1..KIND_COUNT-1 may become pending (42_cm2dm.md R210, R211). -/
theorem TxBounded.post {s : State} (h : TxBounded s) (k : Byte) (v : Word) (h0 : k ≠ 0) (hk : k.toNat < s.cfg.kindCount) :
    TxBounded (setPending k v s) := by
  obtain ⟨hp, hc⟩ := h
  refine ⟨fun j hj => ?_, hc⟩
  simp only [setPending_tx, vget_vset] at hj
  split at hj
  · next hjk =>
    rw [hjk.1]
    exact ⟨Nat.pos_of_ne_zero (fun e => h0 (BitVec.eq_of_toNat_eq e)), hk⟩
  · exact hp j hj

/-- SELECT takes a pending bit back and moves the cursor modulo KIND_COUNT (42_cm2dm.md R213). -/
theorem TxBounded.select {s : State} (h : TxBounded s) : TxBounded (selectNext s) := by
  obtain ⟨hp, hc⟩ := h
  unfold selectNext
  split
  · exact ⟨hp, hc⟩
  · refine ⟨fun j hj => hp j ?_, Nat.mod_lt _ (Nat.zero_lt_of_lt hc)⟩
    dsimp only at hj
    rw [vget_vset] at hj
    split at hj
    · cases hj
    · exact hj

/-- The parameters' part that the invariant uses (00_scope.md R10). -/
theorem params_wf_bounds {p : Params} (h : p.wf = true) :
    1 ≤ p.queueCapacity ∧ 9 ≤ p.kindCount ∧ (p.kindId.ping ≠ 0 ∧ p.kindId.ping.toNat < p.kindCount)
      ∧ 1 ≤ p.resetDelayTicks.toNat ∧ 1 ≤ p.pingTimeoutTicks.toNat := by
  simp only [Params.wf, Bool.and_eq_true, decide_eq_true_eq] at h
  obtain ⟨⟨⟨⟨⟨⟨⟨⟨⟨⟨⟨hcap, hkinds⟩, hids⟩, hlt⟩, _⟩, hdelay⟩, hping⟩, _⟩, _⟩, _⟩, _⟩, _⟩ := h
  have hmem : p.kindId.ping ∈ p.kindId.all := by simp [KindIds.all]
  have hnull : (0 : Byte) ∉ p.kindId.all := (List.nodup_cons.mp (of_decide_eq_true hids)).1
  exact ⟨hcap, hkinds, ⟨fun hz => hnull (hz ▸ hmem), hlt _ hmem⟩, hdelay, hping⟩

/-! ## The timers and LOOP's place -/

/-- A counter that has not ended goes down by one. -/
theorem counter_down (x : Word) (h : 1 ≤ x.toNat) : (x - 1).toNat = x.toNat - 1 := by
  exact BitVec.toNat_sub_of_le (BitVec.le_def.mpr h)

/-- A counter above 1 is still above 0 after a tick. -/
theorem counter_left (x : Word) (h : 1 ≤ x.toNat) (h1 : x ≠ 1) : 1 ≤ (x - 1).toNat := by
  have hne : x.toNat ≠ 1 := fun e => h1 (BitVec.eq_of_toNat_eq e)
  rw [counter_down x h]
  omega

/-- A check that ends leaves a result (42_cm2dm.md R253, R259). -/
theorem LoopConsistent.answered {s t : State} (h : LoopConsistent s) (hl : t.loop = s.loop) (hd : t.disp = s.disp)
    (hw : t.tmr.pingWait = false) (hr : t.tmr.pingHasResult = true) : LoopConsistent t := by
  obtain ⟨_, _, hpass⟩ := h
  refine ⟨fun hx => ?_, fun _ => .inr hr, fun c hc => ?_⟩
  · rw [hw] at hx
    cases hx
  · rw [hl] at hc
    rw [hd]
    exact hpass c hc

/-- In a state of the invariant a check waits only while LOOP holds. -/
theorem LoopConsistent.pingWait_eq_held {s : State} (h : LoopConsistent s) (hh : held s = false) : s.tmr.pingWait = false := by
  obtain ⟨hwait, _, _⟩ := h
  by_contra hw
  rw [Bool.not_eq_false] at hw
  rcases hwait hw with hl | ⟨c, hl⟩ <;> simp [held, hl, hw] at hh

/-- In a state of the invariant a pass is open only in RUN. -/
theorem LoopConsistent.run_of_passOpen {s : State} (h : LoopConsistent s) (ho : PassOpen s) : s.disp.phase = .run := by
  obtain ⟨_, _, hpass⟩ := h
  rcases ho with hr | ⟨c, hc⟩
  · exact hr
  · exact hpass c hc

/-- LOOP moves on outside a hold. -/
theorem LoopConsistent.move {s : State} (h : LoopConsistent s) (p : LoopPos) (hh : held s = false) (hp : ¬HoldPlace p)
    (hr : ∀ c, p = .pass c → PassOpen s) : LoopConsistent { s with loop := p } := by
  refine ⟨fun hw => ?_, fun hp' => absurd hp' hp, fun c hc => ?_⟩
  · exact absurd hw (by simp [h.pingWait_eq_held hh])
  · rcases hc with hc | hc
    · exact h.run_of_passOpen (hr c hc)
    · exact absurd (.inr ⟨c, hc⟩) hp

/-- LOOP starts to hold. -/
theorem LoopConsistent.hold {s : State} (h : LoopConsistent s) (p : LoopPos) (hp : HoldPlace p)
    (hr : ∀ c, p = .heldDispatch c → PassOpen s) : LoopConsistent { armPing s with loop := p } := by
  refine ⟨fun _ => hp, fun _ => .inl rfl, fun c hc => ?_⟩
  rcases hc with hc | hc
  · rcases hp with hp | ⟨d, hp⟩ <;> exact nomatch hp.symm.trans hc
  · exact h.run_of_passOpen (hr c hc)

/-- START opens RUN, which stays. -/
theorem LoopConsistent.start {s : State} (h : LoopConsistent s) : LoopConsistent { s with disp := { s.disp with phase := .run } } := by
  obtain ⟨hwait, hheld, _⟩ := h
  exact ⟨hwait, hheld, fun _ _ => rfl⟩

/-! ## The histories -/

/-- Appended events take the next numbers (10_state.md R56). -/
theorem numbered_append {evs : List (Nat × Event)} (h : evs.map Prod.fst = List.range evs.length) (es : List Event) :
    (evs ++ numberEvents evs.length es).map Prod.fst = List.range (evs ++ numberEvents evs.length es).length := by
  rw [List.map_append, numberEvents_fst, h, List.length_append, numberEvents_length, List.range_eq_range', List.range_eq_range',
    ← List.range'_append_1, Nat.zero_add]

/-! ## The invariant -/

theorem Inv.queueOk {s : State} (h : Inv s) (q : Fin 8) : QueueOk s q := ⟨h.queues q, h.written q⟩

/-- A TICK of the reset delay (42_cm2dm.md R252). -/
theorem Inv.rstTick {s : State} (h : Inv s) (hp : s.tmr.rstPending = true) : Inv (rstTick s) := by
  obtain ⟨hwd, hrst, hping, hsem⟩ := h.timers
  obtain ⟨hleft, hout⟩ := hrst hp
  rw [rstTick_eq]
  by_cases h1 : s.tmr.rstRemaining = 1
  · simp only [h1, if_true]
    exact { h with
      timers := ⟨hwd, nofun, hping, hsem⟩
      histories := ⟨h.histories.1, numbered_append h.histories.2 [.resetOut s.tmr.rstArg]⟩ }
  · simp only [h1, if_false, List.append_nil]
    exact { h with timers := ⟨hwd, fun _ => ⟨counter_left _ hleft h1, hout⟩, hping, hsem⟩ }

/-- A reset starts only while none is on its way (42_cm2dm.md R236). -/
theorem Inv.startReset {s : State} (h : Inv s) (arg : Word) (hi : resetIdle s = true) : Inv (startReset arg s) := by
  obtain ⟨hwd, _, hping, hsem⟩ := h.timers
  obtain ⟨_, _, _, hdelay, _⟩ := params_wf_bounds h.params
  have hout : s.tmr.rstOut = false := by
    simp only [resetIdle, Bool.and_eq_true, Bool.not_eq_true'] at hi
    exact hi.2
  exact { h with timers := ⟨hwd, fun _ => ⟨hdelay, hout⟩, hping, hsem⟩ }

/-- A TICK of the watchdog (42_cm2dm.md R251). -/
theorem Inv.wdTick {s : State} (h : Inv s) (free : Bool) (ha : s.tmr.wdArmed = true) (hf : free = true → resetIdle s = true) :
    Inv (wdTick free s) := by
  obtain ⟨hwd, hrst, hping, hsem⟩ := h.timers
  obtain ⟨hleft, hle⟩ := hwd ha
  have hdown := counter_down _ hleft
  unfold Machine.wdTick
  simp only [counter_ends]
  by_cases h1 : s.tmr.wdRemaining = 1
  · have hoff : Inv { s with tmr := { s.tmr with wdRemaining := s.tmr.wdRemaining - 1, wdArmed := false } } :=
      { h with timers := ⟨nofun, hrst, hping, hsem⟩ }
    rw [if_pos h1]
    split
    · next hfree => exact hoff.startReset _ (hf hfree)
    · exact hoff
  · rw [if_neg h1]
    exact { h with timers := ⟨fun _ => ⟨counter_left _ hleft h1, by dsimp only; omega⟩, hrst, hping, hsem⟩ }

/-- A TICK of a waiting check (42_cm2dm.md R253). -/
theorem Inv.pingTick {s : State} (h : Inv s) (hw : s.tmr.pingWait = true) : Inv (pingTick s) := by
  obtain ⟨hwd, hrst, hping, hsem⟩ := h.timers
  unfold Machine.pingTick
  simp only [counter_ends]
  by_cases h1 : s.tmr.pingRemaining = 1
  · rw [if_pos h1]
    exact { h with timers := ⟨hwd, hrst, nofun, hsem⟩, place := h.place.answered rfl rfl rfl rfl }
  · rw [if_neg h1]
    exact { h with timers := ⟨hwd, hrst, fun _ => counter_left _ (hping hw) h1, hsem⟩ }

/-- WD_SET arms the watchdog with the ticks it names (42_cm2dm.md R238). -/
theorem Inv.wdSet {s : State} (h : Inv s) (d : Word) : Inv (wdSet d s) := by
  obtain ⟨_, hrst, hping, hsem⟩ := h.timers
  rw [wdSet_eq]
  refine { h with timers := ⟨fun hd => ⟨?_, le_rfl⟩, hrst, hping, hsem⟩ }
  exact Nat.pos_of_ne_zero (fun e => of_decide_eq_true hd (BitVec.eq_of_toNat_eq e))

/-- HB rearms an armed watchdog (42_cm2dm.md R239). -/
theorem Inv.heartbeat {s : State} (h : Inv s) (d : Word) : Inv (heartbeat d s) := by
  obtain ⟨hwd, hrst, hping, hsem⟩ := h.timers
  rw [heartbeat_eq]
  refine { h with timers := ⟨fun ha => ?_, hrst, hping, hsem⟩ }
  obtain ⟨hleft, hle⟩ := hwd ha
  dsimp only
  split
  · exact ⟨hleft.trans hle, le_rfl⟩
  · exact ⟨hleft, hle⟩

/-- SEM_GIVE lifts a hold or counts up to SEM_MAX (42_cm2dm.md R259). -/
theorem Inv.semGive {s : State} (h : Inv s) : Inv (semGive s) := by
  obtain ⟨hwd, hrst, hping, hsem⟩ := h.timers
  have hist : HistoriesWf (s.emit .pingGive) := ⟨h.histories.1, numbered_append h.histories.2 [.pingGive]⟩
  have hgive := semGive_sem s
  unfold Machine.semGive at hgive ⊢
  cases hw : s.tmr.pingWait with
  | true => exact { h with timers := ⟨hwd, hrst, nofun, hsem⟩, place := h.place.answered rfl rfl rfl rfl, histories := hist }
  | false =>
    have hmax := (hgive hw).trans_le (Nat.min_le_right _ _)
    simp only [hw, Bool.false_eq_true, if_false] at hmax ⊢
    exact { h with timers := ⟨hwd, hrst, hping, hmax⟩, histories := hist }

/-- A check takes a semaphore that is above 0 (42_cm2dm.md R260). -/
theorem Inv.takeSem {s : State} (h : Inv s) (hs : s.tmr.sem ≠ 0) : Inv (takeSem s) := by
  obtain ⟨hwd, hrst, hping, hsem⟩ := h.timers
  have hdown := counter_down s.tmr.sem (Nat.pos_of_ne_zero (fun e => hs (BitVec.eq_of_toNat_eq e)))
  exact { h with timers := ⟨hwd, hrst, hping, by rw [takeSem_tmr]; dsimp only [takeSem_cfg]; omega⟩ }

/-- LOOP starts to hold in a check that waits (42_cm2dm.md R260). -/
theorem Inv.hold {s : State} (h : Inv s) (p : LoopPos) (hp : HoldPlace p) (hr : ∀ c, p = .heldDispatch c → PassOpen s) :
    Inv { armPing s with loop := p } := by
  obtain ⟨hwd, hrst, _, hsem⟩ := h.timers
  obtain ⟨_, _, _, _, hticks⟩ := params_wf_bounds h.params
  exact { h with timers := ⟨hwd, hrst, fun _ => hticks, hsem⟩, place := h.place.hold p hp hr }

/-- An accepted push. -/
theorem Inv.store {s t : State} (h : Inv s) (q : Fin 8) (e : Entry) (hp : tryPush q e s = some t) : Inv t := by
  obtain ⟨hroom, hst, ht⟩ := tryPush_spec q e s t hp
  have hmem : t.mem.wf = true := by
    have hwrite : t.mem = memWrite s.mem q (slotOf s.cfg.queueCapacity s.rmq[q].wp) e := by
      rw [tryPush_room q e s hroom] at hp
      rw [← Option.some.inj hp]
    rw [hwrite]
    exact memWrite_wf _ _ _ _ h.memory
  have hok := hst.queueOk (by rw [ht]) hroom h.queueOk
  have hq := fun r => (hok r).1
  have hw := fun r => (hok r).2
  rw [ht] at hq hw hmem ⊢
  exact { h with queues := hq, written := hw, memory := hmem }

/-- COMPUTE's rings mirror each other unless it broke a precondition (43_noc.md R287, R294). -/
theorem Inv.compute {s : State} (h : Inv s) (op : Byte) : Inv (computeTables op s) := by
  have hrings : RingsMirrored (computeTables op s) := by
    unfold RingsMirrored
    rw [computeTables_noc]
    cases violatedClasses s.cfg s.noc.harv with
    | nil => exact fun _ => rfl
    | cons c cs => simp
  have hfault : (computeTables op s).fault.Nodup := computeTables_fault_keeps addFault_nodup op s h.histories.1
  rw [computeTables_frame] at hrings ⊢
  exact { h with rings := hrings, histories := ⟨hfault, h.histories.2⟩ }

/-- Every elementary change keeps the invariant. -/
theorem Inv.of_change {s t : State} (c : Change s t) (h : Inv s) : Inv t := by
  obtain ⟨_, _, ⟨hping0, hpingLt⟩, _, _⟩ := params_wf_bounds h.params
  cases c with
  | outside => exact { h with }
  | refused => exact { h with }
  | fault f => exact { h with histories := ⟨addFault_nodup f _ h.histories.1, h.histories.2⟩ }
  | emit es => exact { h with histories := ⟨h.histories.1, numbered_append h.histories.2 es⟩ }
  | store q e hp => exact h.store q e hp
  | take q hne => exact { h with queues := fun r => (QueueOk.taken h.queueOk q hne r).1, written := fun r => (QueueOk.taken h.queueOk q hne r).2 }
  | register => exact { h with }
  | start => exact { h with place := h.place.start }
  | post k v hk =>
    rcases hk with ⟨h0, hlt⟩ | rfl
    · exact { h with tx := h.tx.post k v h0 hlt }
    · exact { h with tx := h.tx.post _ v hping0 hpingLt }
  | select =>
    have htx := h.tx.select
    rw [selectNext_frame] at htx ⊢
    exact { h with tx := htx }
  | retire => exact { h with }
  | receive => exact { h with }
  | give => exact h.semGive
  | takeSem hs => exact h.takeSem hs
  | startReset arg hi => exact h.startReset arg hi
  | wdSet d => exact h.wdSet d
  | heartbeat d => exact h.heartbeat d
  | rstTick hp => exact h.rstTick hp
  | wdTick free ha hf => exact h.wdTick free ha hf
  | pingTick hw => exact h.pingTick hw
  | harvest => exact { h with }
  | compute op => exact h.compute op
  | clear => exact { h with rings := fun _ => rfl }
  | initDone => exact { h with }
  | move p hh hp hr => exact { h with place := h.place.move p hh hp hr }
  | hold p _ hp hr => exact h.hold p hp hr

/-! ## Power-on, every step, and no stop -/

/-- Both pointers of every queue are 0 after power-on (70_reset_and_hazards.md R371). -/
theorem powerOn_rmq (p : Params) (q : Fin 8) : (State.powerOn p).rmq[q] = ⟨0, 0⟩ := by
  simp [State.powerOn]

/-- Every queue is empty after power-on. -/
theorem powerOn_occ (p : Params) (q : Fin 8) : (State.powerOn p).occ q = 0 := by
  unfold State.occ
  rw [powerOn_rmq]
  simp [occupancy]

/-- The invariant at power-on, with any parameters that the spec admits. -/
theorem Inv.powerOn {p : Params} (hp : p.wf = true) : Inv (State.powerOn p) := by
  obtain ⟨hcap, hkinds, _, _, _⟩ := params_wf_bounds hp
  have hq : ∀ q, QueueBounded (State.powerOn p) q := by
    intro q
    have h0 : 0 < 2 * p.queueCapacity := by omega
    unfold QueueBounded
    rw [powerOn_rmq, powerOn_occ]
    exact ⟨h0, h0, Nat.zero_le _⟩
  have hw : ∀ q, OccupiedWritten (State.powerOn p) q := by
    intro q j hj
    rw [powerOn_occ] at hj
    exact absurd hj (Nat.not_lt_zero j)
  have htx : TxBounded (State.powerOn p) := by
    refine ⟨fun k hk => ?_, show 0 < p.kindCount by omega⟩
    have hclear : vget (State.powerOn p).tx.pending k false = false := by
      unfold State.powerOn
      rw [vget_replicate, ite_self]
    rw [hclear] at hk
    cases hk
  have hplace : LoopConsistent (State.powerOn p) := by
    refine ⟨nofun, ?_, ?_⟩
    · rintro (h | ⟨c, h⟩) <;> cases h
    · rintro c (h | h) <;> cases h
  exact {
    params := hp, queues := hq, written := hw, memory := powerOn_mem_wf p, tx := htx
    timers := ⟨nofun, nofun, nofun, Nat.zero_le _⟩
    place := hplace, rings := fun _ => rfl, histories := ⟨List.nodup_nil, rfl⟩ }

/-- Settles O58: power-on with the parameters given, and the reset state as power-on with the reference parameters. -/
theorem invAtReset : Obligations.InvAtReset := by
  unfold Obligations.InvAtReset
  exact ⟨fun _ hp => .powerOn hp, .powerOn Tests.test_reference_wf⟩

/-- RESET keeps the invariant: power-on with the same parameters, and the history kept (70_reset_and_hazards.md R370). -/
theorem Inv.blockReset {s : State} (h : Inv s) : Inv (blockReset s) :=
  { Inv.powerOn h.params with histories := ⟨List.nodup_nil, h.histories.2⟩ }

/-- Settles O59: a step is a sequence of elementary changes or a RESET, and each of them keeps the invariant. -/
theorem invKept : Obligations.InvKept := by
  unfold Obligations.InvKept
  intro s t h hstep
  rcases step_cases hstep with hc | ⟨ib, rfl⟩
  · exact hc.keeps (fun _ _ => .of_change) h
  · exact Inv.blockReset (s := { s with inbox := ib }) { h with }

/-- Settles O60: the one stop of the model needs an occupied slot that nothing has written, and the invariant has none. -/
theorem everyStepCompletes : Obligations.EveryStepCompletes := by
  unfold Obligations.EveryStepCompletes
  intro s h
  cases hstep : step s with
  | next t => exact ⟨t, rfl⟩
  | fault f =>
    have he := ends_step s
    rw [hstep] at he
    obtain ⟨q, hne, hn, _⟩ := he.fault_cases
    exact absurd hn ((h.queueOk q).headEntry hne)
  | refused r =>
    have he := ends_step s
    rw [hstep] at he
    exact absurd he Ends.not_refused

end Sys2Proof.Machine
end

section
/-! PROOF. STAT: the fields of its views, and nothing written (O10). -/

namespace Sys2Proof.Machine

/-- STAT of a view that exists returns it to the agent (40_queue.md R153). -/
theorem execStat_view (a : Agent) (v : StatView) (r : ViewRec) (s : State) (h : s.view v = some r) :
    execStat a v s = .next { s with out := some (a, .result (.view r)) } := by
  unfold execStat
  rw [h]
  rfl

/-- STAT of a view that does not exist is refused (30_encoding.md R124). -/
theorem execStat_refused (a : Agent) (v : StatView) (s : State) (h : s.view v = none) :
    execStat a v s = .next { s with refused := true, out := some (a, .refusal) } := by
  unfold execStat
  rw [h]
  rfl

/-- `QSTAT` names a queue by a byte below 8. -/
theorem view_qstat (s : State) (q : Fin 8) : s.view (.qstat (BitVec.ofNat 8 q.val)) = some (s.qstat q) := by
  have hlt : (BitVec.ofNat 8 q.val : Byte).toNat < 8 := (queueByte_toNat q).trans_lt q.isLt
  have hq : (⟨(BitVec.ofNat 8 q.val : Byte).toNat, hlt⟩ : Fin 8) = q := Fin.ext (queueByte_toNat q)
  simp only [State.view, hlt, dite_true, hq]

/-- The dispatch table's occupied places, read one by one. -/
theorem table_isSome_eq (v : Vector (Option HandlerName) 256) :
    v.toList.map Option.isSome = (List.range 256).map (fun t => (vget v t none).isSome) := by
  apply List.ext_getElem
  · simp
  · intro k hk _
    have hk : k < 256 := by simpa using hk
    simp [vget, hk]

/-- Settles O10: each view is one equation of `State.view`; only `QSTAT` may name what does not exist. -/
theorem statMeaning : Obligations.StatMeaning := by
  unfold Obligations.StatMeaning
  intro a s
  refine ⟨?badQueue, ?qstat, ?dstat, ?txstat, ?rxstat, ?tmrstat, ?gstat, ?nocstat, ?fstat, rfl⟩
  case badQueue =>
    intro q hq
    exact execStat_refused a _ s (dif_neg (Nat.not_lt.mpr hq))
  case qstat => exact fun q => execStat_view a _ _ s (view_qstat s q)
  case dstat =>
    rw [← table_isSome_eq]
    exact execStat_view a .dstat s.dstat s rfl
  case txstat => exact execStat_view a .txstat s.txstat s rfl
  case rxstat => exact execStat_view a .rxstat s.rxstat s rfl
  case tmrstat => exact execStat_view a .tmrstat s.tmrstat s rfl
  case gstat => exact execStat_view a .gstat s.gstat s rfl
  case nocstat => exact execStat_view a .nocstat s.nocstat s rfl
  case fstat => exact execStat_view a .fstat s.fstat s rfl

end Sys2Proof.Machine
end

section
/-! PROOF. An agent whose role does not allow an operation is refused (O53); LOOP's place decides which transaction is next, and no other agent's operation moves it (O42). -/

namespace Sys2Proof.Machine

/-! ## The wrong agent -/

/-- Every port operation tests its agent first; where a queue's index names no queue, the index is refused (20_memory.md R97, R104; 30_encoding.md R124). -/
theorem exec_of_not_agentAllowed {i : Instr} {a : Agent} (s : State) (hi : sourceOf i = .port a) (h : agentAllowed i = false) :
    exec i s = .next (s.refuse a) := by
  cases i with
  | push b q e =>
    obtain rfl := Source.port.inj hi
    have hb : b ≠ if q.toNat < 4 then .transport else .loop := of_decide_eq_false h
    by_cases hq : q.toNat < 8
    · exact (dif_pos hq).trans (if_pos hb)
    · exact dif_neg hq
  | pop b q =>
    obtain rfl := Source.port.inj hi
    have hb : b ≠ if q.toNat < 4 then .loop else .transport := of_decide_eq_false h
    by_cases hq : q.toNat < 8
    · exact (dif_pos hq).trans (if_pos hb)
    · exact dif_neg hq
  | poll b =>
    obtain rfl := Source.port.inj hi
    exact if_pos (not_or.mp (of_decide_eq_false h))
  | reg b | start b | dpass b | post b | pingchk b | inittick b | setharv b | compute b | program b | clear b
  | readmsg b | ackin b | msgin b | tick b =>
    obtain rfl := Source.port.inj hi
    exact if_pos (of_decide_eq_false h)
  | stat => cases h
  | setVoltage | powerSetting | triggerReset | forceFanSpeed | pingDM | debugNocTranslation => cases hi
  | nullMsg | resetReq | ping | fanSpeedUpdate | ready | autoResetTimeoutUpdate | heartbeatUpdate | forcedFanSpeedUpdate | pingV2 => cases hi

/-- Settles O53: the agent's test comes first, and a refusal writes `refused` and the outcome only. -/
theorem wrongAgentRefused : Obligations.WrongAgentRefused := by
  unfold Obligations.WrongAgentRefused
  exact fun _ _ s hi h => exec_of_not_agentAllowed s hi h

/-! ## Operations that leave LOOP's place and the inputs alone -/

/-- Where a transaction that starts in `s` has a next state, LOOP's place and the inputs are those of `s`. -/
def LeavesLoop (s : State) (o : Host.Outcome State Fault Refusal) : Prop :=
  ∀ t, o = .next t → t.loop = s.loop ∧ t.inbox = s.inbox

theorem LeavesLoop.next {s t : State} (hl : t.loop = s.loop) (hi : t.inbox = s.inbox) : LeavesLoop s (.next t) := by
  rintro _ ⟨⟩
  exact ⟨hl, hi⟩

theorem LeavesLoop.fault (s : State) (f : Fault) : LeavesLoop s (.fault f) := by
  intro t h
  cases h

theorem LeavesLoop.refuse (a : Agent) (s : State) : LeavesLoop s (.next (s.refuse a)) := .next rfl rfl

theorem LeavesLoop.unless_refused {s : State} (p : Prop) [Decidable p] {a : Agent} {o : Host.Outcome State Fault Refusal}
    (h : LeavesLoop s o) : LeavesLoop s (if p then .next (s.refuse a) else o) :=
  iteInduction (fun _ => .refuse a s) (fun _ => h)

theorem leavesLoop_execPush (a : Agent) (q : Byte) (e : Entry) (s : State) : LeavesLoop s (execPush a q e s) := by
  unfold execPush
  split
  · refine .unless_refused _ ?_
    split
    · exact .next rfl rfl
    · next hp =>
      obtain ⟨_, _, ht⟩ := tryPush_spec _ _ _ _ hp
      rw [ht]
      exact .next rfl rfl
  · exact .refuse a s

theorem leavesLoop_execPop (a : Agent) (q : Byte) (s : State) : LeavesLoop s (execPop a q s) := by
  unfold execPop
  split
  · next hq =>
    refine .unless_refused _ ?_
    rcases tryPop_found ⟨q.toNat, hq⟩ s with ⟨_, hp⟩ | ⟨_, _, hp⟩ | ⟨e, _, hp⟩ <;> simp only [hp]
    · exact .next rfl rfl
    · exact .fault s _
    · exact .next rfl rfl
  · exact .refuse a s

theorem leavesLoop_execStat (a : Agent) (v : StatView) (s : State) : LeavesLoop s (execStat a v s) := by
  unfold execStat
  split
  · exact .refuse a s
  · exact .next rfl rfl

theorem leavesLoop_execPoll (a : Agent) (s : State) : LeavesLoop s (execPoll a s) := by
  refine .unless_refused _ ?_
  dsimp only
  split
  · exact .next rfl rfl
  · rw [selectNext_frame]
    exact .next rfl rfl

theorem leavesLoop_execReadmsg (a : Agent) (s : State) : LeavesLoop s (execReadmsg a s) :=
  .unless_refused _ (.next rfl rfl)

theorem leavesLoop_execAckin (a : Agent) (k : Ack) (s : State) : LeavesLoop s (execAckin a k s) := by
  refine .unless_refused _ ?_
  rw [acceptAck_frame]
  exact .next rfl rfl

theorem leavesLoop_execMsgin (a : Agent) (m : Record) (s : State) : LeavesLoop s (execMsgin a m s) := by
  refine .unless_refused _ ?_
  rw [receive_frame]
  exact .next rfl rfl

theorem leavesLoop_execTick (a : Agent) (s : State) : LeavesLoop s (execTick a s) := by
  refine .unless_refused _ ?_
  rw [tickTimers_frame]
  exact .next rfl rfl

/-- No operation of another agent moves LOOP: LOOP's own operations are refused to it, and the others leave LOOP's place alone (20_memory.md R97, R104). -/
theorem leavesLoop_exec {i : Instr} {a : Agent} (s : State) (hi : sourceOf i = .port a) (ha : a ≠ .loop) : LeavesLoop s (exec i s) := by
  cases h : agentAllowed i with
  | false =>
    rw [exec_of_not_agentAllowed s hi h]
    exact .refuse a s
  | true =>
    cases i with
    | push b q e => exact leavesLoop_execPush b q e s
    | pop b q => exact leavesLoop_execPop b q s
    | stat b v => exact leavesLoop_execStat b v s
    | poll b => exact leavesLoop_execPoll b s
    | readmsg b => exact leavesLoop_execReadmsg b s
    | ackin b k => exact leavesLoop_execAckin b k s
    | msgin b m => exact leavesLoop_execMsgin b m s
    | tick b => exact leavesLoop_execTick b s
    | reg b | start b | dpass b | post b | pingchk b | inittick b | setharv b | compute b | program b | clear b =>
      obtain rfl := Source.port.inj hi
      exact absurd (of_decide_eq_true h) ha
    | setVoltage | powerSetting | triggerReset | forceFanSpeed | pingDM | debugNocTranslation => cases hi
    | nullMsg | resetReq | ping | fanSpeedUpdate | ready | autoResetTimeoutUpdate | heartbeatUpdate | forcedFanSpeedUpdate | pingV2 => cases hi

/-- Bytes that decode to no port operation are refused (30_encoding.md R124, R128). -/
theorem step_of_port_error (s u : State) (a : Agent) (bytes : List Byte) (err : DecodeError) (h : takeInput s = .port a bytes u)
    (hd : decode u.cfg.kindId (.port a) bytes = .error err) : step s = .next (u.refuse a) := by
  simp only [step, h, hd]

/-- A step that takes another agent's operation, whatever its bytes, leaves LOOP's place and the inputs behind it alone. -/
theorem leavesLoop_step (s u : State) (a : Agent) (bytes : List Byte) (ha : a ≠ .loop) (h : takeInput s = .port a bytes u) :
    LeavesLoop u (step s) := by
  cases hd : decode u.cfg.kindId (.port a) bytes with
  | ok i =>
    rw [step_of_port s u a bytes i h hd]
    exact leavesLoop_exec u (sourceOf_decodePort hd) ha
  | error err =>
    rw [step_of_port_error s u a bytes err h hd]
    exact .refuse a u

/-! ## What is taken, by LOOP's place -/

theorem isLoopPort_eq_false {a : Agent} (ha : a ≠ .loop) (bytes : List Byte) : isLoopPort (.port a bytes) = false := by
  cases a with
  | loop => exact absurd rfl ha
  | handler | transport | timebase | reset => rfl

theorem pickOther_loopPort_cons {i : Input} {rest : List Input} (hi : isLoopPort i = true) :
    pickOther (i :: rest) = (pickOther rest).map (fun p => (p.1, i :: p.2)) := if_pos hi

theorem pickOther_other_cons {i : Input} {rest : List Input} (hi : isLoopPort i = false) : pickOther (i :: rest) = some (i, rest) := by
  simp only [pickOther, hi, Bool.false_eq_true, if_false]

/-- While LOOP holds, the first input that is none of its operations is taken (42_cm2dm.md R260). -/
theorem takeInput_held {s : State} {i : Input} {rest : List Input} (hh : held s = true) (hp : pickOther s.inbox = some (i, rest)) :
    takeInput s = takeNow i { s with inbox := rest } := by
  simp only [takeInput, hh, hp, if_true]

/-- An input at the head of the inbox that is no operation of LOOP is the next, whether LOOP holds or not (20_memory.md R93). -/
theorem takeInput_other {s : State} {i : Input} {rest : List Input} (hi : isLoopPort i = false) (h : s.inbox = i :: rest) :
    takeInput s = takeNow i { s with inbox := rest } := by
  cases hh : held s with
  | true =>
    have hp : pickOther s.inbox = some (i, rest) := by rw [h, pickOther_other_cons hi]
    exact takeInput_held hh hp
  | false => exact takeInput_head s i rest hh hi h

theorem takeTurn_ready {s : State} (h : loopReady s = true) : takeTurn s = .loopGoes s := if_pos h

theorem takeInput_nil {s : State} (hh : held s = false) (h : s.inbox = []) : takeInput s = takeTurn s := by
  simp [takeInput, hh, h]

/-- LOOP goes on with what it has begun before an operation of its own (20_memory.md R94). -/
theorem takeInput_ready_loopPort {s : State} {i : Input} {rest : List Input} (hr : loopReady s = true) (hi : isLoopPort i = true)
    (h : s.inbox = i :: rest) : takeInput s = .loopGoes s := by
  obtain ⟨_, hh⟩ := (loopReady_iff s).mp hr
  simp [takeInput, hh, hr, h, hi]

/-- A LOOP that holds takes no step (70_reset_and_hazards.md R390). -/
theorem takeInput_held_ne_loopGoes {s : State} (hh : held s = true) (u : State) : takeInput s ≠ .loopGoes u := by
  intro ht
  rcases takeInput_cases s with ⟨_, _, h⟩ | ⟨_, _, hr⟩ | ⟨_, _, _, h, _⟩ | ⟨_, h⟩
  · cases ht.symm.trans h
  · cases hh.symm.trans ((loopReady_iff s).mp hr).2
  · cases ht.symm.trans h
  · cases ht.symm.trans h

/-- A busy LOOP starts no operation (20_memory.md R94). -/
theorem takeInput_busy_agent {s u : State} {a : Agent} {bytes : List Byte} (hb : s.loop ≠ .idle) (ht : takeInput s = .port a bytes u) :
    a ≠ .loop := by
  rintro rfl
  rcases takeInput_cases s with ⟨_, _, h⟩ | ⟨_, h, _⟩ | ⟨_, _, _, h, hidle⟩ | ⟨_, h⟩ <;> cases ht.symm.trans h
  exact hb (hidle rfl)

/-- Settles O42: what `takeInput` takes by LOOP's place, and `leavesLoop_step` for another agent's operation. -/
theorem busyLoopTakesNoOperation : Obligations.BusyLoopTakesNoOperation := by
  unfold Obligations.BusyLoopTakesNoOperation
  intro s
  refine ⟨takeInput_held_ne_loopGoes, fun hb _ _ _ => takeInput_busy_agent hb, ?other, ?reset, ?goesOn, ?behind⟩
  case other =>
    intro a bytes rest ha hi
    have ht : takeInput s = .port a bytes { s with inbox := rest } := takeInput_other (isLoopPort_eq_false ha bytes) hi
    exact ⟨ht, leavesLoop_step s _ a bytes ha ht⟩
  case reset => exact fun _ hi => takeInput_other rfl hi
  case goesOn =>
    intro hb hh
    have hr : loopReady s = true := (loopReady_iff s).mpr ⟨hb, hh⟩
    refine ⟨fun hi => (takeInput_nil hh hi).trans (takeTurn_ready hr), fun rest hi => ?_, fun _ _ hi => takeInput_ready_loopPort hr rfl hi⟩
    have hready : loopReady { s with inbox := rest } = true := hr
    exact (takeInput_other rfl hi).trans (takeTurn_ready hready)
  case behind =>
    intro own a bytes rest hh ha hi
    have hp : pickOther s.inbox = some (.port a bytes, .port .loop own :: rest) := by
      rw [hi, pickOther_loopPort_cons rfl, pickOther_other_cons (isLoopPort_eq_false ha bytes)]
      rfl
    exact takeInput_held hh hp

end Sys2Proof.Machine
end

section
/-! PROOF. The records' layouts: bytes to words and back, `STATIC24` and `LCOORD16` (O5). -/

namespace Sys2Proof.Machine

/-! ## Bytes and words -/

theorem wordAt_cons (b0 b1 b2 b3 : Byte) (bs : List Byte) (i : Nat) : wordAt (b0 :: b1 :: b2 :: b3 :: bs) (i + 1) = wordAt bs i := rfl

/-- Bytes read as little-endian words and written again are the same bytes (20_memory.md R81). -/
theorem flatMap_wordBytes_wordAt (n : Nat) (bs : List Byte) (h : bs.length = 4 * n) :
    (List.range n).flatMap (fun i => wordBytes (wordAt bs i)) = bs := by
  induction n generalizing bs with
  | zero => exact (List.eq_nil_of_length_eq_zero h).symm
  | succ n ih =>
    match bs, h with
    | b0 :: b1 :: b2 :: b3 :: rest, h =>
      have hrest : rest.length = 4 * n := by simp only [List.length_cons] at h; omega
      have hfirst : wordBytes (wordAt (b0 :: b1 :: b2 :: b3 :: rest) 0) = [b0, b1, b2, b3] := wordBytes_wordOf b0 b1 b2 b3
      simp only [List.range_succ_eq_map, List.flatMap_cons, List.flatMap_map, Nat.succ_eq_add_one, wordAt_cons, ih rest hrest, hfirst]
      rfl

/-- 32 bytes read as an entry and written again are the same bytes. -/
theorem entryBytes_entryOfBytes (bs : List Byte) (h : bs.length = 32) : entryBytes (entryOfBytes bs) = bs :=
  flatMap_wordBytes_wordAt 8 bs h

theorem halfBytes_halfOf (b0 b1 : Byte) : halfBytes (halfOf b0 b1) = [b0, b1] := by
  rw [halfBytes, halfOf, BitVec.extractLsb'_append_eq_right, BitVec.extractLsb'_append_eq_left]

/-! ## `STATIC24` -/

theorem staticBytes_length (i : StaticInfo) : (staticBytes i).length = 24 := rfl

theorem wordAt_staticBytes (i : StaticInfo) :
    wordAt (staticBytes i) 0 = i.version ∧ wordAt (staticBytes i) 1 = i.bootloaderVersion
      ∧ wordAt (staticBytes i) 2 = i.appVersion ∧ wordAt (staticBytes i) 3 = i.startTime
      ∧ wordAt (staticBytes i) 4 = i.initDuration ∧ wordAt (staticBytes i) 5 = i.lastFaultPc :=
  ⟨wordOf_extract _, wordOf_extract _, wordOf_extract _, wordOf_extract _, wordOf_extract _, wordOf_extract _⟩

theorem staticOfBytes_staticBytes (i : StaticInfo) : staticOfBytes (staticBytes i) = some i := by
  obtain ⟨h0, h1, h2, h3, h4, h5⟩ := wordAt_staticBytes i
  rw [staticOfBytes, if_pos (staticBytes_length i), h0, h1, h2, h3, h4, h5]

/-- 24 bytes are the record they hold. -/
theorem exists_staticBytes (bs : List Byte) (h : bs.length = 24) : ∃ i, staticOfBytes bs = some i ∧ staticBytes i = bs :=
  ⟨_, if_pos h, flatMap_wordBytes_wordAt 6 bs h⟩

/-! ## `LCOORD16` -/

theorem packCoord_toNat (x y : Nat) (hx : x < 64) (hy : y < 64) : (packCoord x y).toNat = y * 64 + x := by
  have hor : y <<< 6 ||| x = y * 64 + x := by
    rw [← Nat.shiftLeft_add_eq_or_of_lt hx, Nat.shiftLeft_eq]
  have hshift : y <<< 6 < 2 ^ 16 := by rw [Nat.shiftLeft_eq]; omega
  rw [packCoord, BitVec.toNat_or, BitVec.toNat_shiftLeft, BitVec.toNat_ofNat, BitVec.toNat_ofNat,
    Nat.mod_eq_of_lt (by omega : y < 2 ^ 16), Nat.mod_eq_of_lt (by omega : x < 2 ^ 16), Nat.mod_eq_of_lt hshift, hor]

/-- A field of a packed coordinate, read off its number. -/
theorem extract_packCoord_toNat (x y k n : Nat) (hx : x < 64) (hy : y < 64) :
    ((packCoord x y).extractLsb' k n).toNat = (y * 64 + x) / 2 ^ k % 2 ^ n := by
  rw [BitVec.extractLsb'_toNat, packCoord_toNat x y hx hy, Nat.shiftRight_eq_div_pow]

theorem unpackCoord_packCoord (x y : Nat) (hx : x < 64) (hy : y < 64) : unpackCoord (packCoord x y) = (x, y) := by
  rw [unpackCoord, extract_packCoord_toNat x y 0 6 hx hy, extract_packCoord_toNat x y 6 6 hx hy, Prod.mk.injEq]
  omega

theorem packCoord_high (x y : Nat) (hx : x < 64) (hy : y < 64) : (packCoord x y).extractLsb' 12 4 = 0 := by
  apply BitVec.eq_of_toNat_eq
  rw [extract_packCoord_toNat x y 12 4 hx hy]
  simp only [BitVec.ofNat_eq_ofNat, BitVec.toNat_ofNat]
  omega

/-- Settles O5: words written as bytes read back at their offsets, and a packed coordinate is the number `64 * y + x`. -/
theorem recordLayouts : Obligations.RecordLayouts := by
  unfold Obligations.RecordLayouts
  refine ⟨fun i => ⟨staticOfBytes_staticBytes i, staticBytes_length i, wordAt_staticBytes i⟩, exists_staticBytes, fun _ h => if_neg h, ?coord⟩
  case coord => exact fun x y hx hy => ⟨packCoord_toNat x y hx hy, unpackCoord_packCoord x y hx hy, packCoord_high x y hx hy⟩

end Sys2Proof.Machine
end

section
/-! PROOF. The operand decoders: for each of them which bytes it accepts and what they stand for, as an `↔`; so what an encoded instruction decodes to (O1), what can decode at all (O2), and which bytes are refused (O3). -/

namespace Sys2Proof.Machine

/-! ## The operands of the port operations -/

theorem exceptMap_eq_ok {α β ε : Type} {f : α → β} {r : Except ε α} {y : β} : r.map f = .ok y ↔ ∃ x, r = .ok x ∧ y = f x := by
  cases r <;> simp [Except.map, eq_comm]

theorem recordOfBytes_eq_ok {bs : List Byte} {m : Record} : recordOfBytes bs = .ok m ↔ bs = recordBytes m := by
  constructor
  · intro h
    unfold recordOfBytes at h
    split at h <;> cases h
    rw [recordBytes, wordBytes_wordOf]
  · rintro rfl
    change Except.ok (Record.mk m.id m.seq _) = _
    rw [wordOf_extract]

theorem ackOfBytes_eq_ok {bs : List Byte} {k : Ack} : ackOfBytes bs = .ok k ↔ bs = ackBytes k := by
  constructor
  · intro h
    unfold ackOfBytes at h
    split at h
    · cases h
      rfl
    · cases h
  · rintro rfl
    rfl

theorem decodePush_eq_ok {a : Agent} {ops : List Byte} {i : Instr} :
    decodePush a ops = .ok i ↔ ∃ q e, queueOk q = true ∧ ops = q :: entryBytes e ∧ i = .push a q e := by
  constructor
  · intro h
    unfold decodePush at h
    split at h
    · next q es =>
      split_ifs at h with hlen hq
      cases h
      exact ⟨q, _, hq, by rw [entryBytes_entryOfBytes es (Decidable.not_not.mp hlen)], rfl⟩
    · cases h
  · rintro ⟨q, e, hq, rfl, rfl⟩
    simp [decodePush, hq, entryBytes_length, entryOfBytes_entryBytes]

theorem decodePop_eq_ok {a : Agent} {ops : List Byte} {i : Instr} :
    decodePop a ops = .ok i ↔ ∃ q, queueOk q = true ∧ ops = [q] ∧ i = .pop a q := by
  constructor
  · intro h
    unfold decodePop at h
    split at h
    · next q =>
      split_ifs at h with hq
      cases h
      exact ⟨q, hq, rfl, rfl⟩
    · cases h
  · rintro ⟨q, hq, rfl, rfl⟩
    simp [decodePop, hq]

theorem decodeStat_eq_ok {a : Agent} {ops : List Byte} {i : Instr} :
    decodeStat a ops = .ok i ↔ ∃ b q v, ops = [b, q] ∧ viewOfBytes b q = .ok v ∧ i = .stat a v := by
  constructor
  · intro h
    unfold decodeStat at h
    split at h
    · next b q =>
      obtain ⟨v, hv, hi⟩ := exceptMap_eq_ok.mp h
      exact ⟨b, q, v, rfl, hv, hi⟩
    · cases h
  · rintro ⟨b, q, v, rfl, hv, rfl⟩
    exact exceptMap_eq_ok.mpr ⟨v, hv, rfl⟩

/-- The two bytes of a view name one of the eight views, and `QSTAT` a queue (40_queue.md R153). -/
theorem viewOfBytes_ok {b q : Byte} {v : StatView} (h : viewOfBytes b q = .ok v) :
    v.wellFormed = true ∧ b.toNat < 8 ∧ (b = 0 → queueOk q = true) := by
  unfold viewOfBytes at h
  split at h
  case h_1 hb =>
    split_ifs at h with hq
    cases h
    exact ⟨hq, by omega, fun _ => hq⟩
  case h_9 => cases h
  all_goals
    next hb =>
    cases h
    exact ⟨rfl, by omega, fun h0 => by rw [h0] at hb; cases hb⟩

theorem decodeStat_viewBytes (a : Agent) (v : StatView) (h : v.wellFormed = true) : decodeStat a (viewBytes v) = .ok (.stat a v) := by
  cases v with
  | qstat q =>
    have hq : queueOk q = true := h
    exact decodeStat_eq_ok.mpr ⟨0, q, _, rfl, if_pos hq, rfl⟩
  | dstat | txstat | rxstat | tmrstat | gstat | nocstat | fstat => rfl

theorem handlerByte_handlerOfByte (b : Byte) : handlerByte (handlerOfByte b) = b := by
  unfold handlerOfByte
  split_ifs with h0 h1
  · exact h0.symm
  · exact h1.symm
  · rfl

theorem handlerOfByte_wellFormed (b : Byte) : (handlerOfByte b).wellFormed = true := by
  unfold handlerOfByte
  split_ifs with h0 h1
  · rfl
  · rfl
  · exact decide_eq_true (by bv_omega)

theorem handlerOfByte_handlerByte (h : HandlerName) (hw : h.wellFormed = true) : handlerOfByte (handlerByte h) = h := by
  cases h with
  | pingDM | debugNoc => rfl
  | external id =>
    have hid : 2 ≤ id.toNat := of_decide_eq_true hw
    have h0 : id ≠ 0 := by bv_omega
    have h1 : id ≠ 1 := by bv_omega
    exact (if_neg h0).trans (if_neg h1)

theorem decodeReg_eq_ok {a : Agent} {ops : List Byte} {i : Instr} :
    decodeReg a ops = .ok i ↔ ∃ t h, h.wellFormed = true ∧ ops = [t, handlerByte h] ∧ i = .reg a t h := by
  constructor
  · intro h
    unfold decodeReg at h
    split at h <;> cases h
    next t b => exact ⟨t, _, handlerOfByte_wellFormed b, by rw [handlerByte_handlerOfByte], rfl⟩
  · rintro ⟨t, h, hw, rfl, rfl⟩
    rw [decodeReg, handlerOfByte_handlerByte h hw]

theorem decodePost_eq_ok {a : Agent} {ops : List Byte} {i : Instr} :
    decodePost a ops = .ok i ↔ ∃ k v, ops = k :: wordBytes v ∧ i = .post a k v := by
  constructor
  · intro h
    unfold decodePost at h
    split at h <;> cases h
    next k _ _ _ _ => exact ⟨k, _, by rw [wordBytes_wordOf], rfl⟩
  · rintro ⟨k, v, rfl, rfl⟩
    change Except.ok (Instr.post a k _) = _
    rw [wordOf_extract]

theorem decodeSetharv_eq_ok {a : Agent} {ops : List Byte} {i : Instr} :
    decodeSetharv a ops = .ok i ↔ ∃ tb g se eb pe,
      ops = halfBytes tb ++ g :: (halfBytes se ++ (halfBytes eb ++ [pe])) ∧ i = .setharv a tb g se eb pe := by
  constructor
  · intro h
    unfold decodeSetharv at h
    split at h <;> cases h
    exact ⟨_, _, _, _, _, by simp only [halfBytes_halfOf]; rfl, rfl⟩
  · rintro ⟨tb, g, se, eb, pe, rfl, rfl⟩
    change Except.ok (Instr.setharv a _ g _ _ pe) = _
    rw [halfOf_extract, halfOf_extract, halfOf_extract]

theorem decodeBare_eq_ok {i j : Instr} {ops : List Byte} : decodeBare i ops = .ok j ↔ ops = [] ∧ j = i := by
  cases ops <;> simp [decodeBare, eq_comm]

/-! ## Requests and records -/

/-- A request's 32 bytes decode by their code and payload (30_encoding.md R112, R126). -/
theorem decodeRequest_requestEntry (c : Fin 4) (code : Byte) (p : Payload) :
    decodeRequest c (entryBytes (requestEntry code p)) = decodeCommand c code p := by
  rw [decodeRequest, if_pos (entryBytes_length _), decodeEntry, entryOfBytes_entryBytes, requestCode_requestEntry, requestPayload_requestEntry]

/-- A named code's instruction arrives on its channel and is encoded by the request (30_encoding.md R126). -/
theorem decodeCommand_ok {c : Fin 4} {code : Byte} {p : Payload} {i : Instr} (ids : KindIds) (h : decodeCommand c code p = .ok i) :
    i.wellFormed = true ∧ sourceOf i = .request c ∧ encode ids i = entryBytes (requestEntry code p) := by
  have named : ∀ {n : Byte} {j : Instr}, code.toNat = n.toNat → j.wellFormed = true → sourceOf j = .request c →
      encode ids j = entryBytes (requestEntry n p) → (Except.ok j : Except DecodeError Instr) = .ok i →
      i.wellFormed = true ∧ sourceOf i = .request c ∧ encode ids i = entryBytes (requestEntry code p) := by
    intro n j hn hw hs he hj
    cases hj
    exact ⟨hw, hs, by rw [he, BitVec.eq_of_toNat_eq hn]⟩
  unfold decodeCommand at h
  split at h
  case h_1 hc => exact named (n := 0x12) hc rfl rfl rfl h
  case h_2 hc => exact named (n := 0x21) hc rfl rfl rfl h
  case h_3 hc => exact named (n := 0x56) hc rfl rfl rfl h
  case h_4 hc => exact named (n := 0xAC) hc rfl rfl rfl h
  case h_5 hc => exact named (n := 0xC0) hc rfl rfl rfl h
  case h_6 hc => exact named (n := 0xDE) hc rfl rfl rfl h
  case h_7 => cases h

/-- A named kind's instruction is encoded by the record (30_encoding.md R127). -/
theorem decodeKind_ok {ids : KindIds} {m : Record} {i : Instr} (h : decodeKind ids m = .ok i) :
    i.wellFormed = true ∧ sourceOf i = .record ∧ encode ids i = recordBytes m := by
  have named : ∀ {k : Byte} {j : Instr}, m.id = k → j.wellFormed = true → sourceOf j = .record →
      encode ids j = recordBytes ⟨k, m.seq, m.data⟩ → (Except.ok j : Except DecodeError Instr) = .ok i →
      i.wellFormed = true ∧ sourceOf i = .record ∧ encode ids i = recordBytes m := by
    rintro k j rfl hw hs he ⟨⟩
    exact ⟨hw, hs, he⟩
  unfold decodeKind at h
  split_ifs at h with h0 h1 h2 h3 h4 h5 h6 h7 h8
  · exact named h0 rfl rfl rfl h
  · exact named h1 rfl rfl rfl h
  · exact named h2 rfl rfl rfl h
  · exact named h3 rfl rfl rfl h
  · exact named h4 rfl rfl rfl h
  · exact named h5 rfl rfl rfl h
  · exact named h6 rfl rfl rfl h
  · exact named h7 rfl rfl rfl h
  · exact named h8 rfl rfl rfl h

theorem decodeRecord_recordBytes (ids : KindIds) (m : Record) : decodeRecord ids (recordBytes m) = decodeKind ids m := by
  rw [decodeRecord, recordOfBytes_eq_ok.mpr rfl]
  rfl

/-- Under an injective numbering a kind's record names that kind: no earlier test of `decodeKind` catches it (00_scope.md R10). -/
theorem decodeRecord_encode {ids : KindIds} {i : Instr} (hids : ids.wf = true) (hi : sourceOf i = .record) :
    decodeRecord ids (encode ids i) = .ok i := by
  have hdistinct : ((0 : Byte) :: ids.all).reverse.Nodup := List.nodup_reverse.mpr (of_decide_eq_true hids)
  simp only [KindIds.all, List.reverse_cons, List.reverse_nil, List.nil_append, List.cons_append, List.nodup_cons, List.mem_cons,
    List.not_mem_nil, not_or, or_false] at hdistinct
  cases i with
  | nullMsg | resetReq | ping | fanSpeedUpdate | ready | autoResetTimeoutUpdate | heartbeatUpdate | forcedFanSpeedUpdate | pingV2 =>
    simp only [encode, decodeRecord_recordBytes, decodeKind, hdistinct, if_true, if_false]
  | push | pop | stat | reg | start | dpass | post | poll | readmsg | ackin | msgin | pingchk | inittick | tick | setharv
  | compute | program | clear => cases hi
  | setVoltage | powerSetting | triggerReset | forceFanSpeed | pingDM | debugNocTranslation => cases hi

/-! ## There and back -/

/-- Settles O1: a port operation by its operands' decoder, a command by its request's code and payload, a kind by the injective numbering. -/
theorem decodeEncodeAgree : Obligations.DecodeEncodeAgree := by
  unfold Obligations.DecodeEncodeAgree
  intro ids i hids hi
  cases i with
  | push a q e => exact decodePush_eq_ok.mpr ⟨q, e, hi, rfl, rfl⟩
  | pop a q => exact decodePop_eq_ok.mpr ⟨q, hi, rfl, rfl⟩
  | stat a v => exact decodeStat_viewBytes a v hi
  | reg a t h => exact decodeReg_eq_ok.mpr ⟨t, h, hi, rfl, rfl⟩
  | post a k v => exact decodePost_eq_ok.mpr ⟨k, v, rfl, rfl⟩
  | ackin a k => exact exceptMap_eq_ok.mpr ⟨k, ackOfBytes_eq_ok.mpr rfl, rfl⟩
  | msgin a m => exact exceptMap_eq_ok.mpr ⟨m, recordOfBytes_eq_ok.mpr rfl, rfl⟩
  | setharv a tb g se eb pe => exact decodeSetharv_eq_ok.mpr ⟨tb, g, se, eb, pe, rfl, rfl⟩
  | start a | dpass a | poll a | readmsg a | pingchk a | inittick a | tick a | compute a | program a | clear a =>
    exact decodeBare_eq_ok.mpr ⟨rfl, rfl⟩
  | setVoltage c p | powerSetting c p | triggerReset c p | forceFanSpeed c p | pingDM c p | debugNocTranslation c p =>
    exact decodeRequest_requestEntry c _ p
  | nullMsg | resetReq | ping | fanSpeedUpdate | ready | autoResetTimeoutUpdate | heartbeatUpdate | forcedFanSpeedUpdate | pingV2 =>
    exact decodeRecord_encode hids rfl

/-- Settles O4: each of the words is the encoding of what it stands for. -/
theorem specWordsDecode : Obligations.SpecWordsDecode := by
  unfold Obligations.SpecWordsDecode
  have decoded (i : Instr) (hi : i.wellFormed = true) : decode .reference (sourceOf i) (encode .reference i) = .ok i :=
    decodeEncodeAgree .reference i (by decide) hi
  exact ⟨decoded (.start .loop) rfl, decoded (.tick .timebase) rfl, decoded (.post .loop 3 42) rfl, decoded (.ackin .transport ⟨3, 1⟩) rfl,
    decoded (.setharv .loop 0x0208 0xFF 0 0 1) rfl, decoded (.fanSpeedUpdate 1 55) rfl,
    decoded (.debugNocTranslation 0 ⟨0x020801, 0x002001FF, 0, 0, 0, 0, 0, 0⟩) rfl⟩

/-- What a port's bytes decode to is well-formed and, STAT apart, encoded by these bytes: each selector by its operands' decoder (30_encoding.md R125). -/
theorem decodePort_ok {a : Agent} {bs : List Byte} {i : Instr} (ids : KindIds) (h : decodePort a bs = .ok i) :
    i.wellFormed = true ∧ ((∀ a v, i ≠ .stat a v) → encode ids i = bs) := by
  match bs, h with
  | op :: ops, h =>
    have bare : ∀ {n : Byte} {j : Instr}, op.toNat = n.toNat → j.wellFormed = true → encode ids j = [n] → decodeBare j ops = .ok i →
        i.wellFormed = true ∧ ((∀ a v, i ≠ .stat a v) → encode ids i = op :: ops) := by
      intro n j hn hw he hb
      obtain ⟨rfl, rfl⟩ := decodeBare_eq_ok.mp hb
      exact ⟨hw, fun _ => by rw [he, BitVec.eq_of_toNat_eq hn]⟩
    unfold decodePort at h
    dsimp only at h
    split at h
    case h_1 hop =>
      obtain ⟨q, e, hq, rfl, rfl⟩ := decodePush_eq_ok.mp h
      exact ⟨hq, fun _ => by rw [encode, BitVec.eq_of_toNat_eq (y := 0x01) hop]⟩
    case h_2 hop =>
      obtain ⟨q, hq, rfl, rfl⟩ := decodePop_eq_ok.mp h
      exact ⟨hq, fun _ => by rw [encode, BitVec.eq_of_toNat_eq (y := 0x02) hop]⟩
    case h_3 =>
      obtain ⟨_, _, v, _, hv, rfl⟩ := decodeStat_eq_ok.mp h
      exact ⟨(viewOfBytes_ok hv).1, fun hne => absurd rfl (hne a v)⟩
    case h_4 hop =>
      obtain ⟨t, n, hw, rfl, rfl⟩ := decodeReg_eq_ok.mp h
      exact ⟨hw, fun _ => by rw [encode, BitVec.eq_of_toNat_eq (y := 0x10) hop]⟩
    case h_5 hop => exact bare (n := 0x11) hop rfl rfl h
    case h_6 hop => exact bare (n := 0x12) hop rfl rfl h
    case h_7 hop =>
      obtain ⟨k, v, rfl, rfl⟩ := decodePost_eq_ok.mp h
      exact ⟨rfl, fun _ => by rw [encode, BitVec.eq_of_toNat_eq (y := 0x20) hop]⟩
    case h_8 hop => exact bare (n := 0x21) hop rfl rfl h
    case h_9 hop => exact bare (n := 0x22) hop rfl rfl h
    case h_10 hop =>
      obtain ⟨k, hk, rfl⟩ := exceptMap_eq_ok.mp h
      exact ⟨rfl, fun _ => by rw [encode, BitVec.eq_of_toNat_eq (y := 0x23) hop, ackOfBytes_eq_ok.mp hk]⟩
    case h_11 hop =>
      obtain ⟨m, hm, rfl⟩ := exceptMap_eq_ok.mp h
      exact ⟨rfl, fun _ => by rw [encode, BitVec.eq_of_toNat_eq (y := 0x24) hop, recordOfBytes_eq_ok.mp hm]⟩
    case h_12 hop => exact bare (n := 0x25) hop rfl rfl h
    case h_13 hop => exact bare (n := 0x26) hop rfl rfl h
    case h_14 hop => exact bare (n := 0x30) hop rfl rfl h
    case h_15 hop =>
      obtain ⟨tb, g, se, eb, pe, rfl, rfl⟩ := decodeSetharv_eq_ok.mp h
      exact ⟨rfl, fun _ => by rw [encode, BitVec.eq_of_toNat_eq (y := 0x40) hop]⟩
    case h_16 hop => exact bare (n := 0x41) hop rfl rfl h
    case h_17 hop => exact bare (n := 0x42) hop rfl rfl h
    case h_18 hop => exact bare (n := 0x43) hop rfl rfl h
    case h_19 => cases h

/-- What a channel's bytes decode to arrives there and is encoded by these bytes. -/
theorem decodeRequest_ok {c : Fin 4} {bs : List Byte} {i : Instr} (ids : KindIds) (h : decodeRequest c bs = .ok i) :
    i.wellFormed = true ∧ sourceOf i = .request c ∧ encode ids i = bs := by
  unfold decodeRequest at h
  split_ifs at h with hlen
  have hi := decodeCommand_ok ids h
  rwa [requestEntry_code_payload, entryBytes_entryOfBytes bs hlen] at hi

/-- What a record's bytes decode to arrives as a record and is encoded by these bytes. -/
theorem decodeRecord_ok {ids : KindIds} {bs : List Byte} {i : Instr} (h : decodeRecord ids bs = .ok i) :
    i.wellFormed = true ∧ sourceOf i = .record ∧ encode ids i = bs := by
  unfold decodeRecord at h
  cases hm : recordOfBytes bs with
  | error err =>
    rw [hm] at h
    cases h
  | ok m =>
    rw [hm] at h
    rw [recordOfBytes_eq_ok.mp hm]
    exact decodeKind_ok h

/-- Settles O2: by where the bytes arrive. -/
theorem decodedIsInstruction : Obligations.DecodedIsInstruction := by
  unfold Obligations.DecodedIsInstruction
  intro ids src bs i h
  cases src with
  | port a =>
    obtain ⟨hw, he⟩ := decodePort_ok ids h
    exact ⟨hw, sourceOf_decodePort h, he⟩
  | request c =>
    obtain ⟨hw, hs, he⟩ := decodeRequest_ok ids h
    exact ⟨hw, hs, fun _ => he⟩
  | record =>
    obtain ⟨hw, hs, he⟩ := decodeRecord_ok h
    exact ⟨hw, hs, fun _ => he⟩

/-! ## Bytes that are refused -/

/-- The selectors of 30_encoding.md R125. -/
def portSelectors : List Byte :=
  [0x01, 0x02, 0x03, 0x10, 0x11, 0x12, 0x20, 0x21, 0x22, 0x23, 0x24, 0x25, 0x26, 0x30, 0x40, 0x41, 0x42, 0x43]

/-- Only bytes that begin with a selector decode (30_encoding.md R128). -/
theorem mem_portSelectors_of_decodePort {a : Agent} {op : Byte} {ops : List Byte} {i : Instr} (h : decodePort a (op :: ops) = .ok i) :
    op ∈ portSelectors := by
  have numbered : op.toNat ∈ portSelectors.map BitVec.toNat → op ∈ portSelectors :=
    (List.mem_map_of_injective (fun _ _ => BitVec.eq_of_toNat_eq)).mp
  unfold decodePort at h
  dsimp only at h
  split at h
  case h_19 => cases h
  all_goals
    next hop => exact numbered (hop ▸ by decide)

/-- A byte of 8 or more names no queue (30_encoding.md R124). -/
theorem not_queueOk {q : Byte} (hq : 8 ≤ q.toNat) : queueOk q ≠ true := by
  simpa [queueOk] using hq

/-- Bytes of a port that decode to nothing are refused. -/
theorem step_of_undecoded (s u : State) (a : Agent) (bytes : List Byte) (h : takeInput s = .port a bytes u)
    (hd : ∀ i, decodePort a bytes ≠ .ok i) : step s = .next (u.refuse a) := by
  cases hr : decodePort a bytes with
  | ok i => exact absurd hr (hd i)
  | error err => exact step_of_port_error s u a bytes err h hr

/-- Settles O3: no clause's bytes decode, by what each operand decoder accepts. -/
theorem illegalBytesRefused : Obligations.IllegalBytesRefused := by
  unfold Obligations.IllegalBytesRefused
  intro a bytes hb s u ht
  refine step_of_undecoded s u a bytes ht (fun i hi => ?_)
  rcases hb with ⟨op, ops, rfl, hop⟩ | ⟨q, ops, hbytes, hq⟩ | ⟨v, ops, rfl, hv⟩ | ⟨ops, rfl, hlen⟩ | ⟨ops, rfl, hlen⟩
  case inl => exact hop (mem_portSelectors_of_decodePort hi)
  case inr.inl =>
    rcases hbytes with rfl | rfl | rfl
    · have hi : decodePush a (q :: ops) = .ok i := hi
      obtain ⟨_, _, hok, heq, _⟩ := decodePush_eq_ok.mp hi
      rw [← (List.cons.inj heq).1] at hok
      exact not_queueOk hq hok
    · have hi : decodePop a (q :: ops) = .ok i := hi
      obtain ⟨_, hok, heq, _⟩ := decodePop_eq_ok.mp hi
      cases heq
      exact not_queueOk hq hok
    · have hi : decodeStat a (0 :: q :: ops) = .ok i := hi
      obtain ⟨_, _, _, heq, hview, _⟩ := decodeStat_eq_ok.mp hi
      cases heq
      exact not_queueOk hq ((viewOfBytes_ok hview).2.2 rfl)
  case inr.inr.inl =>
    have hi : decodeStat a (v :: ops) = .ok i := hi
    obtain ⟨_, _, _, heq, hview, _⟩ := decodeStat_eq_ok.mp hi
    cases heq
    exact absurd (viewOfBytes_ok hview).2.1 (Nat.not_lt.mpr hv)
  case inr.inr.inr.inl =>
    have hi : (ackOfBytes ops).map (Instr.ackin a) = .ok i := hi
    obtain ⟨k, hk, _⟩ := exceptMap_eq_ok.mp hi
    rw [ackOfBytes_eq_ok.mp hk] at hlen
    exact hlen rfl
  case inr.inr.inr.inr =>
    have hi : (recordOfBytes ops).map (Instr.msgin a) = .ok i := hi
    obtain ⟨m, hm, _⟩ := exceptMap_eq_ok.mp hi
    rw [recordOfBytes_eq_ok.mp hm] at hlen
    exact hlen rfl

end Sys2Proof.Machine
end

section
/-! PROOF. The fields of a `DBGNOC` request, and which bits of the harvest registers COMPUTE reads (O6). -/

namespace Sys2Proof.Machine

/-! ## The request -/

/-- A field is known by its bits. -/
theorem extractLsb'_eq_of_getLsbD {n m k : Nat} {x : BitVec n} {y : BitVec m} (h : ∀ i, i < m → x.getLsbD (k + i) = y.getLsbD i) :
    x.extractLsb' k m = y := by
  apply BitVec.eq_of_getLsbD_eq
  intro i hi
  rw [BitVec.getLsbD_extractLsb', decide_eq_true hi, Bool.true_and, h i hi]

/-- Fields of words that agree on the field's bits. -/
theorem extractLsb'_congr {n m k : Nat} {x y : BitVec n} (h : ∀ i, i < m → x.getLsbD (k + i) = y.getLsbD (k + i)) :
    x.extractLsb' k m = y.extractLsb' k m :=
  extractLsb'_eq_of_getLsbD (fun i hi => by rw [h i hi, BitVec.getLsbD_extractLsb', decide_eq_true hi, Bool.true_and])

/-- Word 0 of a `DBGNOC` request, bit by bit (30_encoding.md R117). -/
theorem dbgNocWord0_getLsbD (bad : Half) (ovr sel en : Bool) (code : Byte) (k : Nat) :
    (bad ++ (0 : BitVec 5) ++ BitVec.ofBool ovr ++ BitVec.ofBool sel ++ BitVec.ofBool en ++ code).getLsbD k
      = if k < 8 then code.getLsbD k else if k = 8 then en else if k = 9 then sel else if k = 10 then ovr
        else if k < 16 then false else bad.getLsbD (k - 16) := by
  simp only [BitVec.getLsbD_append, BitVec.getLsbD_ofBool, Nat.sub_sub]
  grind

/-- Word 1 of a `DBGNOC` request, bit by bit (30_encoding.md R117). -/
theorem dbgNocWord1_getLsbD (skip : Half) (g : Byte) (k : Nat) :
    ((0 : Byte) ++ skip ++ g).getLsbD k = if k < 8 then g.getLsbD k else if k < 24 then skip.getLsbD (k - 8) else false := by
  simp only [BitVec.getLsbD_append]
  grind

/-- Each field of a request built from its fields is read where it was put (30_encoding.md R117). -/
theorem dbgNocFields_dbgNocRequest (d : DbgNoc) : dbgNocFields (dbgNocRequest d) = d := by
  obtain ⟨en, sel, ovr, bad, g, skip⟩ := d
  have word0 := dbgNocWord0_getLsbD bad ovr sel en 0xDE
  have word1 := dbgNocWord1_getLsbD skip g
  have tensix : (dbgNocRequest ⟨en, sel, ovr, bad, g, skip⟩).w0.extractLsb' 16 16 = bad :=
    extractLsb'_eq_of_getLsbD (fun i hi => (word0 (16 + i)).trans (by grind))
  have gddr : (dbgNocRequest ⟨en, sel, ovr, bad, g, skip⟩).w1.extractLsb' 0 8 = g :=
    extractLsb'_eq_of_getLsbD (fun i hi => (word1 (0 + i)).trans (by grind))
  have eth : (dbgNocRequest ⟨en, sel, ovr, bad, g, skip⟩).w1.extractLsb' 8 16 = skip :=
    extractLsb'_eq_of_getLsbD (fun i hi => (word1 (8 + i)).trans (by grind))
  simp only [dbgNocFields, DbgNoc.mk.injEq]
  exact ⟨word0 8, word0 9, word0 10, tensix, gddr, (BitVec.extractLsb'_append_extractLsb'_eq_extractLsb' rfl).trans eth⟩

/-- Requests that agree in every bit that R117 names have the same fields (30_encoding.md R130). -/
theorem dbgNocFields_congr {e f : Entry} (h0 : ∀ k, k < 32 → ¬(11 ≤ k ∧ k < 16) → e.w0.getLsbD k = f.w0.getLsbD k)
    (h1 : ∀ k, k < 24 → e.w1.getLsbD k = f.w1.getLsbD k) : dbgNocFields e = dbgNocFields f := by
  have byte1 : ∀ start, start + 8 ≤ 24 → e.w1.extractLsb' start 8 = f.w1.extractLsb' start 8 :=
    fun start hs => extractLsb'_congr (fun i hi => h1 _ (by omega))
  have tensix : e.w0.extractLsb' 16 16 = f.w0.extractLsb' 16 16 :=
    extractLsb'_congr (fun i hi => h0 _ (by omega) (by omega))
  simp only [dbgNocFields, h0 8 (by decide) (by decide), h0 9 (by decide) (by decide), h0 10 (by decide) (by decide), tensix,
    byte1 0 (by decide), byte1 8 (by decide), byte1 16 (by decide)]

/-! ## The harvest registers -/

section
variable {b b' : Half} (h : ∀ i, i < 14 → b.getLsbD i = b'.getLsbD i)
include h

/-- Bits 15 and 14 of `tensix_bad` name no column (43_noc.md R277). -/
theorem tensixOrder_congr : tensixOrder b = tensixOrder b' := by
  unfold tensixOrder
  congr 2
  · exact List.filter_congr (fun i hi => by rw [h i (List.mem_range.mp hi)])
  · exact List.filter_congr (fun i hi => h i (List.mem_range.mp (List.mem_reverse.mp hi)))

theorem tensixMask_congr : tensixMask b = tensixMask b' :=
  List.foldl_ext _ _ _ (fun m i hi => by rw [h i (List.mem_range.mp hi)])

theorem extract_tensix_congr : b.extractLsb' 0 14 = b'.extractLsb' 0 14 :=
  extractLsb'_congr (fun i hi => h _ (by omega))

end

/-- Bits of `skip_eth` beyond the last lane name no lane (43_noc.md R282). -/
theorem ethLanes_congr {geo : Geometry} {b b' : Half} (h : ∀ l, l < geo.ethX.length → b.getLsbD l = b'.getLsbD l) :
    ethLanes geo b = ethLanes geo b' :=
  List.filter_congr (fun l hl => by rw [h l (List.mem_range.mp hl)])

theorem pcieInstance_congr {h k : Harvest} (he : h.pcieEn = k.pcieEn) (ho : h.pcieOverride = k.pcieOverride) (hs : h.pcieSel = k.pcieSel) :
    pcieInstance h = pcieInstance k := by
  rw [pcieInstance, pcieInstance, he, ho, hs]

/-- Settles O6: COMPUTE reads `tensix_bad` by its column order and mask, `skip_eth` by its lanes, and the PCIe fields by the node they select. -/
theorem ignoredBitsChangeNothing : Obligations.IgnoredBitsChangeNothing := by
  unfold Obligations.IgnoredBitsChangeNothing
  refine ⟨dbgNocFields_dbgNocRequest, fun _ _ => dbgNocFields_congr, ?_⟩
  intro p h k htensix heth hgddr hen hover hsel
  constructor
  · simp only [computedTable, tensixX, tensixOrder_congr htensix, ethXY, ethLanes_congr heth, hgddr, setMasks, tensixMask_congr htensix,
      fixedMappings, pcieNode, pcieInstance_congr hen hover hsel]
  · rw [violatedClasses, violatedClasses, extract_tensix_congr htensix, hgddr]

end Sys2Proof.Machine
end

section
/-! PROOF. A DSTEP runs its request's handler, whatever the code (O16), and ends after a lifted hold (O20); a record's kind is its receipt (O35). -/

namespace Sys2Proof.Machine

/-! ## The end of a DSTEP -/

/-- The outcome before a response is overwritten by the DSTEP's own. -/
theorem respond_finish (c : Fin 4) (rsp : Entry) (a : Agent) (r : Result) (s : State) : respond c rsp (s.finish a r) = respond c rsp s := by
  by_cases h : s.cfg.queueCapacity ≤ s.occ (rspQueue c)
  · have h' : (s.finish a r).cfg.queueCapacity ≤ (s.finish a r).occ (rspQueue c) := h
    simp only [respond, tryPush_full _ _ _ h, tryPush_full _ _ _ h']
    rfl
  · have hroom := Nat.lt_of_not_le h
    have hroom' : (s.finish a r).occ (rspQueue c) < (s.finish a r).cfg.queueCapacity := hroom
    simp only [respond, tryPush_room _ _ _ hroom, tryPush_room _ _ _ hroom']
    rfl

theorem respond_noc (c : Fin 4) (rsp : Entry) (s : State) : (respond c rsp s).noc = s.noc := by rw [respond_frame]

theorem respond_fault (c : Fin 4) (rsp : Entry) (s : State) : (respond c rsp s).fault = s.fault := by rw [respond_frame]

/-! ## COMPUTE inside DEBUGNOC -/

/-- With a `gddr_bad` that names a channel or none, only the compute class can be violated (43_noc.md R287). -/
theorem violatedClasses_of_gddr {p : Params} {h : Harvest} (hg : ¬(h.gddrBad ≠ p.gddrNone ∧ p.geo.nGddr ≤ h.gddrBad.toNat)) :
    violatedClasses p h = if h.tensixBad.extractLsb' 0 14 = 0x3FFF then [.tensix] else [] := by
  rw [violatedClasses, if_neg hg, List.append_nil]

/-- The operation that COMPUTE runs in shows in the fault records only. -/
theorem computeTables_op (op op' : Byte) (s : State) :
    computeTables op s = { computeTables op' s with fault := (computeTables op s).fault } := by
  unfold computeTables
  dsimp only
  rw [foldl_note_frame op, foldl_note_frame op']

/-- What COMPUTE notes (43_noc.md R287). -/
theorem computeTables_fault (op : Byte) (s : State) : (computeTables op s).fault
    = (violatedClasses s.cfg s.noc.harv).foldl (fun fs c => addFault ⟨.precond, op, classInfo c⟩ fs) s.fault :=
  (List.foldl_hom State.fault (fun _ _ => rfl)).symm

/-- Where no class is violated COMPUTE notes nothing, so its operation does not show at all. -/
theorem computeTables_op_of_nil {s : State} (h : violatedClasses s.cfg s.noc.harv = []) (op op' : Byte) :
    computeTables op s = computeTables op' s := by
  have hfault : ∀ op, (computeTables op s).fault = s.fault := fun op => by rw [computeTables_fault, h, List.foldl_nil]
  rw [computeTables_op op op', hfault op, ← hfault op']

/-! ## The port operations that DEBUGNOC is made of -/

theorem exec_clear_loop (s : State) : exec (.clear .loop) s = .next ((clearTables s).finish .loop .ok) := rfl

theorem exec_program_loop (s : State) : exec (.program .loop) s = .next ((programNodes s).finish .loop .ok) := rfl

theorem exec_compute_loop {s : State} (h : s.noc.harvValid = true) :
    exec (.compute .loop) s = .next ((computeTables 0x41 s).finish .loop .ok) := by
  have hv : s.noc.harvValid ≠ false := by simp [h]
  exact if_neg hv

/-- The outcomes that PROGRAM and the operation before it leave are overwritten by the end of the DSTEP. -/
theorem responded_program (c : Fin 4) (rsp : Entry) (s : State) :
    Responded c rsp ((programNodes (s.finish .loop .ok)).finish .loop .ok) (respond c rsp (programNodes s)) := by
  have hrespond : respond c rsp ((programNodes (s.finish .loop .ok)).finish .loop .ok) = respond c rsp (programNodes s) :=
    (respond_finish c rsp _ _ _).trans (respond_finish c rsp .loop .ok (programNodes s))
  rw [← hrespond]
  exact respond_spec c rsp _

/-! ## The handlers -/

theorem ranExternal_dispatchRequest {c : Fin 4} {e : Entry} {s : State} {id : Byte}
    (h : vget s.disp.table (requestCode e).toNat none = some (.external id)) :
    RanExternal c id (requestCode e) e s (dispatchRequest c e s) := by
  rw [dispatchRequest_some c e s _ h]
  rintro r rfl
  exact respond_spec c _ _

theorem ranPingDm_dispatchRequest {c : Fin 4} {e : Entry} {s : State} (h : vget s.disp.table (requestCode e).toNat none = some .pingDM) :
    RanPingDm c (requestCode e) s (dispatchRequest c e s) := by
  rw [dispatchRequest_some c e s _ h]
  rintro s1 rfl
  rcases pingDmStart_cases c (s.emit (.handlerCall (requestCode e))) with ⟨hsem, ht⟩ | ⟨hsem, ht⟩ <;> rw [ht]
  · exact ⟨fun _ => respond_spec c _ _, fun h0 => absurd h0 hsem⟩
  · exact ⟨fun hne => absurd hsem hne, fun _ => rfl⟩

/-- DEBUGNOC of a `bad_gddr` that names no channel (43_noc.md R291). -/
theorem debugNoc_badGddr {d : DbgNoc} {s : State} (h : d.badGddr ≠ s.cfg.gddrNone ∧ s.cfg.geo.nGddr ≤ d.badGddr.toNat) :
    debugNoc d s = (s.cfg.errBadGddr, s) := if_pos h

/-- DEBUGNOC with translation off. -/
theorem debugNoc_off {d : DbgNoc} {s : State} (h : ¬(d.badGddr ≠ s.cfg.gddrNone ∧ s.cfg.geo.nGddr ≤ d.badGddr.toNat))
    (he : d.enable = false) : debugNoc d s = (0, programNodes (clearTables s)) := (if_neg h).trans (if_pos he)

/-- DEBUGNOC with translation on. -/
theorem debugNoc_on {d : DbgNoc} {s : State} (h : ¬(d.badGddr ≠ s.cfg.gddrNone ∧ s.cfg.geo.nGddr ≤ d.badGddr.toNat))
    (he : d.enable = true) : debugNoc d s = (0, programNodes (computeTables 0x12 (debugHarvest d s))) :=
  (if_neg h).trans (if_neg (by simp [he]))

/-- DEBUGNOC after a broken compute-class precondition: what its COMPUTE leaves is what the port operation leaves, but for the operation in the fault record (43_noc.md R287, R291; 60_exceptions.md R340). -/
theorem debugNoc_violated {s : State} (c : Fin 4) (hv : s.noc.harvValid = true) (hbad : violatedClasses s.cfg s.noc.harv = [.tensix]) {t : State}
    (ht : t = respond c Entry.zero (programNodes (computeTables 0x12 s))) :
    (∀ f, f ∈ t.fault ↔ f = ⟨.precond, 0x12, 0⟩ ∨ f ∈ s.fault) ∧ t.noc.precondViolated = true ∧ t.noc.harv = s.noc.harv
      ∧ ∃ u v, exec (.compute .loop) s = .next u ∧ exec (.program .loop) { u with fault := t.fault } = .next v ∧ Responded c Entry.zero v t := by
  have hfault : t.fault = (computeTables 0x12 s).fault := by rw [ht, respond_fault]; rfl
  have hnoc : t.noc = (computeTables 0x12 s).noc := by rw [ht, respond_noc]; rfl
  refine ⟨fun f => ?_, ?_, ?_, _, _, exec_compute_loop hv, exec_program_loop _, ?_⟩
  · rw [hfault, computeTables_fault, hbad]
    exact mem_addFault _ f _
  · rw [hnoc, computeTables_noc, hbad]
    exact Bool.or_true _
  · rw [hnoc, computeTables_noc]
  · have hsame : { (computeTables 0x41 s).finish .loop .ok with fault := t.fault } = (computeTables 0x12 s).finish .loop .ok := by
      rw [hfault, computeTables_op 0x41 0x12]
      rfl
    rw [hsame, ht]
    exact responded_program c _ _

/-- A request registered to `H_DEBUGNOC`, branch by branch (41_dispatch.md R191). -/
theorem ranDebugNoc_dispatchRequest {c : Fin 4} {e : Entry} {s : State} (h : vget s.disp.table (requestCode e).toNat none = some .debugNoc) :
    RanDebugNoc c (requestCode e) e s (dispatchRequest c e s) := by
  rw [dispatchRequest_some c e s _ h]
  rintro d s1 s2 rfl hs1 hs2
  generalize dbgNocFields e = d at hs2 ⊢
  have hcall : s.emit (.handlerCall (requestCode e)) = s1 := hs1.symm
  have hharvest : debugHarvest d s1 = s2 := by rw [hs2, hs1]; rfl
  have hcfg : s1.cfg = s.cfg := by rw [hs1]
  have hfault : s2.fault = s.fault := by rw [hs2, hs1]
  have hvalid : s2.noc.harvValid = true := by rw [hs2]
  dsimp only
  rw [hcall]
  refine ⟨fun hbad => ?badGddr, fun hgood => ?_⟩
  case badGddr =>
    rw [← hcfg] at hbad ⊢
    rw [debugNoc_badGddr hbad]
    exact respond_spec c _ _
  have hgddr : ¬(d.badGddr ≠ s1.cfg.gddrNone ∧ s1.cfg.geo.nGddr ≤ d.badGddr.toNat) := by
    rw [hcfg]
    rintro ⟨hne, hle⟩
    exact hgood.elim hne (Nat.not_lt.mpr hle)
  have hclasses : violatedClasses s2.cfg s2.noc.harv = if d.badTensix.extractLsb' 0 14 = 0x3FFF then [.tensix] else [] := by
    rw [← hharvest]
    exact violatedClasses_of_gddr hgddr
  refine ⟨fun hoff => ?off, fun hon htensix => ?on, fun hon htensix => ?violated⟩
  case off =>
    rw [debugNoc_off hgddr hoff]
    exact ⟨_, _, exec_clear_loop _, exec_program_loop _, responded_program c _ _⟩
  case on =>
    rw [debugNoc_on hgddr hon, hharvest, computeTables_op_of_nil (hclasses.trans (if_neg htensix)) 0x12 0x41]
    exact ⟨_, _, exec_compute_loop hvalid, exec_program_loop _, responded_program c _ _⟩
  case violated =>
    rw [debugNoc_on hgddr hon, hharvest, ← hfault]
    exact debugNoc_violated c hvalid (hclasses.trans (if_pos htensix)) rfl

/-! ## DSTEP and what follows a hold -/

/-- A DSTEP that finds its channel empty ends with OK (41_dispatch.md R185). -/
theorem dstep_empty {c : Fin 4} {s : State} (hr : s.disp.phase = .run) (he : s.rmq[reqQueue c].wp = s.rmq[reqQueue c].rp) :
    dstep c s = .next { s with loop := if c = 3 then .idle else .pass (c + 1), out := some (.loop, .result .ok) } := by
  have hp : tryPop (reqQueue c) s = .empty := if_pos he
  simp only [dstep, hr, ne_eq, not_true_eq_false, if_false, hp]
  rfl

/-- Settles O16: either way the step is `DSTEP(c)`, which dispatches the oldest request to the handler of its code. -/
theorem passGoesOn : Obligations.PassGoesOn := by
  unfold Obligations.PassGoesOn
  intro u c o ho hr
  obtain rfl : o = dstep c u := by
    rcases ho with ⟨rfl, rfl⟩ | ⟨s, ht, hl, rfl⟩
    · rfl
    · exact step_of_pass s u c ht hl
  refine ⟨dstep_empty hr, fun e hne he => ?_⟩
  have hdispatch := dstep_headEntry c u e hr hne he
  refine ⟨fun i hi => dstep_decoded c u e i hr hne he hi, fun h => ⟨_, hdispatch, ?_⟩, fun id h => ⟨_, hdispatch, ?_⟩,
    fun h => ⟨_, hdispatch, ?_⟩, fun h => ⟨_, hdispatch, ?_⟩⟩
  · rw [dispatchRequest_none c e (u.taken (reqQueue c)) h]
    exact respond_spec c _ _
  · exact ranExternal_dispatchRequest h
  · exact ranPingDm_dispatchRequest h
  · exact ranDebugNoc_dispatchRequest h

/-- LOOP that goes on does not hold. -/
theorem held_of_loopGoes {s u : State} (h : takeInput s = .loopGoes u) : held u = false := by
  rcases takeInput_cases s with ⟨_, _, h'⟩ | ⟨_, h', hr⟩ | ⟨_, _, _, h', _⟩ | ⟨_, h'⟩ <;> cases h.symm.trans h'
  exact ((loopReady_iff s).mp hr).2

/-- Settles O20: LOOP goes on only once the hold is lifted, and then the response is pushed. -/
theorem pingDmResumes : Obligations.PingDmResumes := by
  unfold Obligations.PingDmResumes
  intro s u c ht hl
  have hw : u.tmr.pingWait = false := by simpa [held, hl] using held_of_loopGoes ht
  have hturn : loopTurn u = .next (respond c (pingDmResponse (decide (u.tmr.pingResult = .alive))) u) := by
    simp only [loopTurn, hl, hw, Bool.false_eq_true, if_false]
  refine ⟨_, (step_of_loopGoes s u ht).trans hturn, ?_⟩
  simpa only [pingDmResponse, Entry.zero, decide_eq_true_eq] using respond_spec c (pingDmResponse (decide (u.tmr.pingResult = .alive))) u

/-! ## The kinds -/

theorem recordBytes_injective {m n : Record} (h : recordBytes m = recordBytes n) : m = n :=
  Except.ok.inj ((recordOfBytes_eq_ok.mpr rfl).symm.trans (recordOfBytes_eq_ok.mpr h))

/-- The meaning of a kind is the receipt of the record that encodes it (42_cm2dm.md R230, R235). -/
theorem exec_eq_receive {i : Instr} {m : Record} {s : State} (hi : sourceOf i = .record) (he : encode s.cfg.kindId i = recordBytes m) :
    exec i s = .next (receive m s) := by
  cases i with
  | nullMsg | resetReq | ping | fanSpeedUpdate | ready | autoResetTimeoutUpdate | heartbeatUpdate | forcedFanSpeedUpdate | pingV2 =>
    rw [← recordBytes_injective he]
    rfl
  | push | pop | stat | reg | start | dpass | post | poll | readmsg | ackin | msgin | pingchk | inittick | tick | setharv
  | compute | program | clear => cases hi
  | setVoltage | powerSetting | triggerReset | forceFanSpeed | pingDM | debugNocTranslation => cases hi

/-- Settles O35: MSGIN of TRANSPORT is the receipt of its record, and so is the kind that the record names. -/
theorem msginRunsKind : Obligations.MsginRunsKind := by
  unfold Obligations.MsginRunsKind
  intro m i s h
  obtain ⟨_, hs, he⟩ := decodeKind_ok h
  rw [exec_eq_receive hs he]
  rfl

end Sys2Proof.Machine
end

section
/-! PROOF. PUSH and POP, case by case (O7, O8); what they do to a queue's contents, and from there that a queue is a FIFO (O11) and that no step reorders one (O12). -/

namespace Sys2Proof.Machine

/-! ## PUSH and POP of a queue -/

theorem queueByte_of_toNat {q : Fin 8} {b : Byte} (h : q.val = b.toNat) : b = BitVec.ofNat 8 q.val := by
  rw [h, BitVec.ofNat_toNat, BitVec.setWidth_eq]

theorem queueByte_lt (q : Fin 8) : (BitVec.ofNat 8 q.val : Byte).toNat < 8 := (queueByte_toNat q).trans_lt q.isLt

theorem queueByte_index (q : Fin 8) (h : (BitVec.ofNat 8 q.val : Byte).toNat < 8) :
    (⟨(BitVec.ofNat 8 q.val : Byte).toNat, h⟩ : Fin 8) = q := Fin.ext (queueByte_toNat q)

theorem agentAllowed_push {q : Fin 8} {b : Byte} (h : q.val = b.toNat) (a : Agent) (e : Entry) :
    agentAllowed (.push a b e) = decide (a = producer q) := by
  simp only [agentAllowed, producer, h]

theorem agentAllowed_pop {q : Fin 8} {b : Byte} (h : q.val = b.toNat) (a : Agent) :
    agentAllowed (.pop a b) = decide (a = consumer q) := by
  simp only [agentAllowed, consumer, h]

/-- PUSH by the queue's producer (40_queue.md R151). -/
theorem exec_push_producer (q : Fin 8) (e : Entry) (s : State) :
    exec (.push (producer q) (BitVec.ofNat 8 q.val) e) s
      = .next ((tryPush q e s).elim (s.finish (producer q) .full) (State.finish (producer q) .ok)) := by
  change execPush _ _ _ _ = _
  simp only [execPush, queueByte_lt, queueByte_index, dite_true, ne_eq, not_true_eq_false, if_false]
  cases tryPush q e s <;> rfl

theorem exec_push_full (q : Fin 8) (e : Entry) (s : State) (h : s.cfg.queueCapacity ≤ s.occ q) :
    exec (.push (producer q) (BitVec.ofNat 8 q.val) e) s = .next { s with out := some (producer q, .result .full) } := by
  rw [exec_push_producer, tryPush_full q e s h]
  rfl

theorem exec_push_room (q : Fin 8) (e : Entry) (s : State) (h : s.occ q < s.cfg.queueCapacity) :
    ∃ t, exec (.push (producer q) (BitVec.ofNat 8 q.val) e) s = .next t ∧ StoredEntry q e s t
      ∧ t = { s with mem := t.mem, rmq := t.rmq, out := some (producer q, .result .ok) } := by
  obtain ⟨u, hu⟩ : ∃ u, tryPush q e s = some u := ⟨_, tryPush_room q e s h⟩
  obtain ⟨_, hstored, hframe⟩ := tryPush_spec q e s u hu
  refine ⟨u.finish (producer q) .ok, by rw [exec_push_producer, hu]; rfl, hstored, ?_⟩
  conv_lhs => rw [hframe]
  rfl

theorem exec_pop_empty (q : Fin 8) (s : State) (h : s.rmq[q].wp = s.rmq[q].rp) :
    exec (.pop (consumer q) (BitVec.ofNat 8 q.val)) s = .next { s with out := some (consumer q, .result .none) } := by
  have hp : tryPop q s = .empty := if_pos h
  change execPop _ _ _ = _
  simp only [execPop, queueByte_lt, queueByte_index, dite_true, ne_eq, not_true_eq_false, if_false, hp]
  rfl

theorem exec_pop_entry (q : Fin 8) (e : Entry) (s : State) (h : s.rmq[q].wp ≠ s.rmq[q].rp) (he : s.headEntry q = some e) :
    exec (.pop (consumer q) (BitVec.ofNat 8 q.val)) s = .next { s.taken q with out := some (consumer q, .result (.entry e)) } := by
  change execPop _ _ _ = _
  simp only [execPop, queueByte_lt, queueByte_index, dite_true, ne_eq, not_true_eq_false, if_false, tryPop_headEntry q s e h he]
  rfl

/-- Settles O7: the index and the agent are tested first, and then the occupancy. -/
theorem pushMeaning : Obligations.PushMeaning := by
  unfold Obligations.PushMeaning
  intro a b e s
  refine ⟨fun hb => dif_neg (Nat.not_lt.mpr hb), fun q hq => ⟨fun ha => ?refused, ?full, ?room⟩⟩
  case refused => exact exec_of_not_agentAllowed s rfl ((agentAllowed_push hq a e).trans (decide_eq_false ha))
  all_goals
    obtain rfl := queueByte_of_toNat hq
    rintro rfl
  case full => exact exec_push_full q e s
  case room => exact exec_push_room q e s

/-- Settles O8: the index and the agent are tested first, and then whether the pointers are equal. -/
theorem popMeaning : Obligations.PopMeaning := by
  unfold Obligations.PopMeaning
  intro a b s
  refine ⟨fun hb => dif_neg (Nat.not_lt.mpr hb), fun q hq => ⟨fun ha => ?refused, ?empty, ?entry⟩⟩
  case refused => exact exec_of_not_agentAllowed s rfl ((agentAllowed_pop hq a).trans (decide_eq_false ha))
  all_goals
    obtain rfl := queueByte_of_toNat hq
    rintro rfl
  case empty => exact exec_pop_empty q s
  case entry => exact fun hne e => exec_pop_entry q e s hne

/-! ## What a queue holds -/

theorem queueContents_length (s : State) (q : Fin 8) : (queueContents s q).length = s.occ q := by
  simp [queueContents]

theorem queueContents_eq_nil {s : State} {q : Fin 8} (h : s.rmq[q].wp = s.rmq[q].rp) : queueContents s q = [] := by
  rw [← List.length_eq_zero_iff, queueContents_length]
  unfold State.occ occupancy
  rw [h, Int.sub_self, Int.zero_emod, Int.toNat_zero]

/-- What a queue holds is read through its pointers, the capacity and its own slots. -/
theorem queueContents_congr {s t : State} {q : Fin 8} (hc : t.cfg = s.cfg) (hp : t.rmq[q] = s.rmq[q])
    (hm : ∀ i, memRead t.mem q i = memRead s.mem q i) : queueContents t q = queueContents s q := by
  simp only [queueContents, pendingSlot, State.occ, hc, hp, hm]

/-- Below a full queue the slot that a push writes is none of the occupied ones (40_queue.md R150). -/
theorem slotOf_pending_ne (cap wp rp j : Nat) (hw : wp < 2 * cap) (hr : rp < 2 * cap) (hj : j < occupancy cap ⟨wp, rp⟩)
    (hroom : occupancy cap ⟨wp, rp⟩ < cap) : slotOf cap (rp + j) ≠ slotOf cap wp := by
  rw [← slotOf_occupancy cap wp rp hw hr]
  intro h
  have hmod : j % cap = occupancy cap ⟨wp, rp⟩ % cap := Nat.ModEq.add_left_cancel' rp h
  rw [Nat.mod_eq_of_lt (hj.trans hroom), Nat.mod_eq_of_lt hroom] at hmod
  exact hj.ne hmod

/-- An accepted push leaves every slot but its own alone. -/
theorem StoredEntry.memRead_other {q : Fin 8} {e : Entry} {s t : State} (h : StoredEntry q e s t) (r : Fin 8) (i : Nat)
    (hi : (q, s.rmq[q].wp % s.cfg.queueCapacity) ≠ (r, i)) : memRead t.mem r i = memRead s.mem r i := by
  obtain ⟨_, hother, _, _⟩ := h
  unfold memRead
  rw [readBytes_congr t.mem s.mem 32 (slotAddr r i)]
  intro k hk
  have := slotAddr_disjoint _ _ _ _ hi
  exact hother _ (by omega)

/-- An accepted push puts its entry at the end of what its queue holds (40_queue.md R151). -/
theorem StoredEntry.queueContents_same {q : Fin 8} {e : Entry} {s t : State} (h : StoredEntry q e s t) (hc : t.cfg = s.cfg)
    (hb : QueueBounded s q) (hroom : s.occ q < s.cfg.queueCapacity) : queueContents t q = queueContents s q ++ [some e] := by
  have hother := h.memRead_other q
  obtain ⟨hnew, _, hq, _⟩ := h
  obtain ⟨hwp, hrp, _⟩ := hb
  have hocc : t.occ q = s.occ q + 1 := by
    unfold State.occ
    rw [hq, hc]
    exact (occupancy_push _ _ _ hwp hrp hroom).2
  have hslot : ∀ j, pendingSlot t q j = pendingSlot s q j := fun j => by
    unfold pendingSlot
    rw [hq, hc]
  have hlast : pendingSlot s q (s.occ q) = s.rmq[q].wp % s.cfg.queueCapacity := slotOf_occupancy _ _ _ hwp hrp
  have hkept : ∀ j ∈ List.range (s.occ q), memRead t.mem q (pendingSlot s q j) = memRead s.mem q (pendingSlot s q j) := fun j hj =>
    hother _ (fun heq => slotOf_pending_ne _ _ _ j hwp hrp (List.mem_range.mp hj) hroom (Prod.mk.inj heq).2.symm)
  simp only [queueContents, hocc, hslot, List.range_succ, List.map_append, List.map_cons, List.map_nil, hlast, hnew]
  rw [List.map_congr_left hkept]

/-- An accepted push leaves what every other queue holds alone. -/
theorem StoredEntry.queueContents_other {q r : Fin 8} {e : Entry} {s t : State} (h : StoredEntry q e s t) (hc : t.cfg = s.cfg)
    (hr : r ≠ q) : queueContents t r = queueContents s r := by
  have hread := fun i => h.memRead_other r i (fun heq => hr (Prod.mk.inj heq).1.symm)
  obtain ⟨_, _, _, hothers⟩ := h
  exact queueContents_congr hc (hothers r hr) hread

theorem taken_rmq_same (s : State) (q : Fin 8) :
    (s.taken q).rmq[q] = ⟨s.rmq[q].wp, nextPtr s.cfg.queueCapacity s.rmq[q].rp⟩ := by
  simp [State.taken, nextPtr]

theorem taken_rmq_other (s : State) {q r : Fin 8} (h : r ≠ q) : (s.taken q).rmq[r] = s.rmq[r] := rmq_set_other _ _ _ _ h

/-- A pop takes the oldest entry off what its queue holds (40_queue.md R152). -/
theorem queueContents_taken_same {s : State} {q : Fin 8} (hb : QueueBounded s q) (hne : s.rmq[q].wp ≠ s.rmq[q].rp) :
    queueContents s q = s.headEntry q :: queueContents (s.taken q) q := by
  obtain ⟨hwp, hrp, _⟩ := hb
  have hocc : s.occ q = (s.taken q).occ q + 1 := by
    unfold State.occ
    rw [taken_rmq_same]
    exact (occupancy_pop _ _ _ hwp hrp hne).2.symm
  have hslot : ∀ j, pendingSlot (s.taken q) q j = pendingSlot s q (j + 1) := fun j => by
    unfold pendingSlot
    rw [taken_rmq_same]
    exact slotOf_nextPtr _ _ _
  simp only [queueContents, hocc, hslot, List.range_succ_eq_map, List.map_cons, List.map_map]
  rfl

theorem queueContents_taken_other (s : State) {q r : Fin 8} (h : r ≠ q) : queueContents (s.taken q) r = queueContents s r :=
  queueContents_congr rfl (taken_rmq_other s h) (fun _ => rfl)

/-! ## Sequences of calls -/

theorem entriesOf_append (q : Fin 8) (es fs : List (Fin 8 × Entry)) : entriesOf q (es ++ fs) = entriesOf q es ++ entriesOf q fs := by
  simp [entriesOf]

theorem entriesOf_single_same (q : Fin 8) (e : Entry) : entriesOf q [(q, e)] = [e] := by
  simp [entriesOf]

theorem entriesOf_single_other {q r : Fin 8} (h : r ≠ q) (e : Entry) : entriesOf r [(q, e)] = [] := by
  simp [entriesOf, h.symm]

/-- What a run of calls keeps for queue `q`: what was accepted is what was returned and then what the queue holds, the pointers count the calls, and the occupancy is within the capacity (40_queue.md R154 to R156). -/
structure FifoSoFar (r : QueueRun) (q : Fin 8) : Prop where
  order : (entriesOf q r.accepted).map some = (entriesOf q r.returned).map some ++ queueContents r.state q
  wp : r.state.rmq[q].wp = (entriesOf q r.accepted).length % (2 * r.state.cfg.queueCapacity)
  rp : r.state.rmq[q].rp = (entriesOf q r.returned).length % (2 * r.state.cfg.queueCapacity)
  room : r.state.occ q ≤ r.state.cfg.queueCapacity

section

variable {r : QueueRun} {q : Fin 8} {t : State}

/-- The occupancy is exact (40_queue.md R156). -/
theorem FifoSoFar.occ_add_returned (h : FifoSoFar r q) :
    r.state.occ q + (entriesOf q r.returned).length = (entriesOf q r.accepted).length := by
  have hlen := congrArg List.length h.order
  simp only [List.length_map, List.length_append, queueContents_length] at hlen
  omega

theorem FifoSoFar.bounded (h : FifoSoFar r q) (hcap : 1 ≤ r.state.cfg.queueCapacity) : QueueBounded r.state q := by
  have hmod : ∀ n, n % (2 * r.state.cfg.queueCapacity) < 2 * r.state.cfg.queueCapacity := fun n => Nat.mod_lt n (by omega)
  exact ⟨h.wp ▸ hmod _, h.rp ▸ hmod _, h.room⟩

/-- A queue that is not empty pops an entry: what it holds was accepted. -/
theorem FifoSoFar.exists_headEntry (h : FifoSoFar r q) (hcap : 1 ≤ r.state.cfg.queueCapacity)
    (hne : r.state.rmq[q].wp ≠ r.state.rmq[q].rp) : ∃ e, r.state.headEntry q = some e := by
  have hhead : r.state.headEntry q ∈ (entriesOf q r.accepted).map some := by
    rw [h.order, queueContents_taken_same (h.bounded hcap) hne]
    simp
  obtain ⟨e, _, he⟩ := List.mem_map.mp hhead
  exact ⟨e, he.symm⟩

/-- A call that leaves the queue and its entries in the record alone. -/
theorem FifoSoFar.congr {acc ret : List (Fin 8 × Entry)} (h : FifoSoFar r q) (hc : t.cfg = r.state.cfg) (hp : t.rmq[q] = r.state.rmq[q])
    (hq : queueContents t q = queueContents r.state q) (hacc : entriesOf q acc = entriesOf q r.accepted)
    (hret : entriesOf q ret = entriesOf q r.returned) : FifoSoFar ⟨t, acc, ret⟩ q where
  order := by rw [hacc, hret, hq]; exact h.order
  wp := by rw [hacc, hp, hc]; exact h.wp
  rp := by rw [hret, hp, hc]; exact h.rp
  room := by rw [← queueContents_length, hq, queueContents_length, hc]; exact h.room

/-- An accepted push, recorded. -/
theorem FifoSoFar.pushed {e : Entry} (h : FifoSoFar r q) (hcap : 1 ≤ r.state.cfg.queueCapacity) (hs : StoredEntry q e r.state t)
    (hc : t.cfg = r.state.cfg) (hroom : r.state.occ q < r.state.cfg.queueCapacity) :
    FifoSoFar ⟨t, r.accepted ++ [(q, e)], r.returned⟩ q := by
  have hcontents := hs.queueContents_same hc (h.bounded hcap) hroom
  have hacc : entriesOf q (r.accepted ++ [(q, e)]) = entriesOf q r.accepted ++ [e] := by
    rw [entriesOf_append, entriesOf_single_same]
  obtain ⟨_, _, hptrs, _⟩ := hs
  refine ⟨?order, ?wp, ?rp, ?room⟩
  case order => rw [hacc, hcontents, List.map_append, h.order, List.append_assoc]; rfl
  case wp => rw [hacc, hptrs, hc, List.length_append, h.wp, Nat.mod_add_mod]; rfl
  case rp => rw [hptrs, hc]; exact h.rp
  case room =>
    rw [← queueContents_length, hcontents, List.length_append, queueContents_length, hc]
    exact hroom

/-- A pop that returned an entry, recorded. -/
theorem FifoSoFar.popped {e : Entry} (h : FifoSoFar r q) (hcap : 1 ≤ r.state.cfg.queueCapacity)
    (hne : r.state.rmq[q].wp ≠ r.state.rmq[q].rp) (he : r.state.headEntry q = some e) :
    FifoSoFar ⟨r.state.taken q, r.accepted, r.returned ++ [(q, e)]⟩ q := by
  have hcontents := queueContents_taken_same (h.bounded hcap) hne
  have hret : entriesOf q (r.returned ++ [(q, e)]) = entriesOf q r.returned ++ [e] := by
    rw [entriesOf_append, entriesOf_single_same]
  refine ⟨?order, ?wp, ?rp, ?room⟩
  case order =>
    rw [hret, List.map_append, List.append_assoc, h.order, hcontents, he]
    rfl
  case wp => rw [taken_rmq_same]; exact h.wp
  case rp =>
    rw [hret, taken_rmq_same, List.length_append]
    exact (congrArg (nextPtr _) h.rp).trans (Nat.mod_add_mod _ _ _)
  case room =>
    have hlen := congrArg List.length hcontents
    rw [List.length_cons, queueContents_length, queueContents_length] at hlen
    exact (Nat.le_succ _).trans (hlen.symm.trans_le h.room)

end

/-- What a run of calls keeps of the whole state. -/
def FifoRun (cap : Nat) (r : QueueRun) : Prop := r.state.cfg.queueCapacity = cap ∧ ∀ q, FifoSoFar r q

/-- A call whose outcome is written over what it leaves alone. -/
theorem FifoRun.unchanged {cap : Nat} {r : QueueRun} (h : FifoRun cap r) (o : Option (Agent × TxnOutcome)) :
    FifoRun cap ⟨{ r.state with out := o }, r.accepted, r.returned⟩ := by
  obtain ⟨hcap, hq⟩ := h
  exact ⟨hcap, fun q => (hq q).congr rfl rfl rfl rfl rfl⟩

theorem FifoRun.push {cap : Nat} (hpos : 1 ≤ cap) {r : QueueRun} (h : FifoRun cap r) (q : Fin 8) (e : Entry) :
    ∃ t, queueCall q (some e) r.state = .next t ∧ FifoRun cap (r.record q (some e) t) := by
  rcases Nat.lt_or_ge (r.state.occ q) r.state.cfg.queueCapacity with hroom | hfull
  · obtain ⟨t, ht, hs, hframe⟩ := exec_push_room q e r.state hroom
    have hc : t.cfg = r.state.cfg := by rw [hframe]
    have hrecord : r.record q (some e) t = ⟨t, r.accepted ++ [(q, e)], r.returned⟩ := by rw [hframe]; rfl
    obtain ⟨rfl, hq⟩ := h
    refine ⟨t, ht, ?_⟩
    rw [hrecord]
    refine ⟨congrArg _ hc, fun p => ?_⟩
    by_cases hp : p = q
    · subst hp
      exact (hq p).pushed hpos hs hc hroom
    · have hother := hs.queueContents_other hc hp
      obtain ⟨_, _, _, hothers⟩ := hs
      refine (hq p).congr hc (hothers p hp) hother ?_ rfl
      rw [entriesOf_append, entriesOf_single_other hp, List.append_nil]
  · exact ⟨_, exec_push_full q e r.state hfull, h.unchanged _⟩

theorem FifoRun.pop {cap : Nat} (hpos : 1 ≤ cap) {r : QueueRun} (h : FifoRun cap r) (q : Fin 8) :
    ∃ t, queueCall q none r.state = .next t ∧ FifoRun cap (r.record q none t) := by
  by_cases hempty : r.state.rmq[q].wp = r.state.rmq[q].rp
  · exact ⟨_, exec_pop_empty q r.state hempty, h.unchanged _⟩
  · obtain ⟨rfl, hq⟩ := h
    obtain ⟨e, he⟩ := (hq q).exists_headEntry hpos hempty
    refine ⟨_, exec_pop_entry q e r.state hempty he, rfl, fun p => ?_⟩
    by_cases hp : p = q
    · subst hp
      exact ((hq p).popped hpos hempty he).congr rfl rfl rfl rfl rfl
    · refine (hq p).congr rfl (taken_rmq_other r.state hp) (queueContents_taken_other r.state hp) rfl ?_
      rw [entriesOf_append, entriesOf_single_other hp, List.append_nil]

theorem FifoRun.run {cap : Nat} (hpos : 1 ≤ cap) (ops : List (Fin 8 × Option Entry)) {r : QueueRun} (h : FifoRun cap r) :
    ∃ r', runQueues ops r = some r' ∧ FifoRun cap r' := by
  induction ops generalizing r with
  | nil => exact ⟨r, rfl, h⟩
  | cons call ops ih =>
    obtain ⟨q, op⟩ := call
    obtain ⟨t, ht, hr⟩ : ∃ t, queueCall q op r.state = .next t ∧ FifoRun cap (r.record q op t) := by
      cases op with
      | none => exact h.pop hpos q
      | some e => exact h.push hpos q e
    simp only [runQueues, ht]
    exact ih hr

/-- Nothing accepted, nothing returned, nothing held. -/
theorem FifoSoFar.start {s : State} {q : Fin 8} (h : s.rmq[q] = ⟨0, 0⟩) : FifoSoFar ⟨s, [], []⟩ q where
  order := (queueContents_eq_nil (by rw [h])).symm
  wp := by rw [h]; exact (Nat.zero_mod _).symm
  rp := by rw [h]; exact (Nat.zero_mod _).symm
  room := by
    rw [← queueContents_length, queueContents_eq_nil (by rw [h])]
    exact Nat.zero_le _

/-- Settles O11: empty queues are a FIFO so far, and each call, which never stops, keeps them one. -/
theorem queuesAreFifo : Obligations.QueuesAreFifo := by
  unfold Obligations.QueuesAreFifo
  intro s ops hpos hempty
  have hstart : FifoRun s.cfg.queueCapacity ⟨s, [], []⟩ := ⟨rfl, fun q => .start (hempty q)⟩
  obtain ⟨r, hr, hcap, hq⟩ := hstart.run hpos ops
  rw [← hcap]
  exact ⟨r, hr, fun q => ⟨(hq q).order, (hq q).wp, (hq q).rp, (hq q).occ_add_returned, (hq q).room⟩⟩

end Sys2Proof.Machine
end

section
/-! PROOF. Over any step but RESET a queue gains one entry at its end, loses its oldest, or stays (O12). -/

namespace Sys2Proof.Machine

/-! ## What a transaction does to one queue -/

/-- From `s` to `t` queue `q` holds what it held, or one entry more at its end, or all but its oldest (40_queue.md R155). -/
def KeepsOrder (q : Fin 8) (s t : State) : Prop :=
  queueContents t q = queueContents s q
    ∨ (∃ e, queueContents t q = queueContents s q ++ [some e])
    ∨ ∃ e, queueContents s q = some e :: queueContents t q

/-- Where a transaction that starts in `s` has a next state, queue `q` keeps its order. -/
def EndsInOrder (q : Fin 8) (s : State) (o : Host.Outcome State Fault Refusal) : Prop := ∀ t, o = .next t → KeepsOrder q s t

/-- From `s` to `t` no queue changed: neither a pointer nor a slot, nor the capacity. -/
structure SameQueues (s t : State) : Prop where
  cfg : t.cfg = s.cfg := by rfl
  rmq : t.rmq = s.rmq := by rfl
  mem : t.mem = s.mem := by rfl

theorem SameQueues.queueContents_eq {s t : State} (h : SameQueues s t) (q : Fin 8) : queueContents t q = queueContents s q :=
  queueContents_congr h.cfg (by rw [h.rmq]) (by simp [h.mem])

theorem SameQueues.trans {s t u : State} (h : SameQueues s t) (k : SameQueues t u) : SameQueues s u :=
  ⟨k.cfg.trans h.cfg, k.rmq.trans h.rmq, k.mem.trans h.mem⟩

theorem SameQueues.bounded {s t : State} (h : SameQueues s t) {q : Fin 8} (hb : QueueBounded s q) : QueueBounded t q := by
  unfold QueueBounded State.occ at *
  rwa [h.rmq, h.cfg]

theorem SameQueues.ite {s t u : State} (p : Prop) [Decidable p] (ht : SameQueues s t) (hu : SameQueues s u) :
    SameQueues s (if p then t else u) :=
  iteInduction (fun _ => ht) (fun _ => hu)

theorem KeepsOrder.then_same {q : Fin 8} {s t u : State} (h : KeepsOrder q s t) (k : SameQueues t u) : KeepsOrder q s u := by
  unfold KeepsOrder at *
  rwa [k.queueContents_eq]

section

variable {q : Fin 8} {s t : State} {o o' : Host.Outcome State Fault Refusal}

theorem EndsInOrder.next (h : KeepsOrder q s t) : EndsInOrder q s (.next t) := by
  rintro _ ⟨⟩
  exact h

/-- A transaction that leaves the queues alone. -/
theorem EndsInOrder.same (h : SameQueues s t) : EndsInOrder q s (.next t) := .next (.inl (h.queueContents_eq q))

theorem EndsInOrder.fault (f : Fault) : EndsInOrder q s (.fault f) := by
  intro t h
  cases h

theorem EndsInOrder.ite (p : Prop) [Decidable p] (h : EndsInOrder q s o) (h' : EndsInOrder q s o') :
    EndsInOrder q s (if p then o else o') :=
  iteInduction (fun _ => h) (fun _ => h')

theorem EndsInOrder.unless_refused (p : Prop) [Decidable p] {a : Agent} (h : EndsInOrder q s o) :
    EndsInOrder q s (if p then .next (s.refuse a) else o) :=
  .ite p (.same {}) h

end

/-! ## The queue operations -/

theorem StoredEntry.keepsOrder {q r : Fin 8} {e : Entry} {s t : State} (h : StoredEntry r e s t) (hc : t.cfg = s.cfg)
    (hb : QueueBounded s q) (hroom : s.occ r < s.cfg.queueCapacity) : KeepsOrder q s t := by
  by_cases hq : q = r
  · subst hq
    exact .inr (.inl ⟨e, h.queueContents_same hc hb hroom⟩)
  · exact .inl (h.queueContents_other hc hq)

theorem keepsOrder_taken {q r : Fin 8} {e : Entry} {s : State} (hb : QueueBounded s q) (hne : s.rmq[r].wp ≠ s.rmq[r].rp)
    (he : s.headEntry r = some e) : KeepsOrder q s (s.taken r) := by
  by_cases hq : q = r
  · subst hq
    exact .inr (.inr ⟨e, he ▸ queueContents_taken_same hb hne⟩)
  · exact .inl (queueContents_taken_other s hq)

theorem endsInOrder_push {q : Fin 8} {s : State} (hb : QueueBounded s q) (a : Agent) (b : Byte) (e : Entry) :
    EndsInOrder q s (exec (.push a b e) s) := by
  obtain ⟨hindex, hqueue⟩ := pushMeaning a b e s
  rcases Nat.lt_or_ge b.toNat 8 with hlt | hge
  · obtain ⟨r, hr⟩ : ∃ r : Fin 8, r.val = b.toNat := ⟨⟨b.toNat, hlt⟩, rfl⟩
    obtain ⟨hwrong, hfull, hroom⟩ := hqueue r hr
    by_cases ha : a = producer r
    · rcases Nat.lt_or_ge (s.occ r) s.cfg.queueCapacity with hlt | hge
      · obtain ⟨t, ht, hs, hframe⟩ := hroom ha hlt
        exact ht ▸ .next (hs.keepsOrder (by rw [hframe]) hb hlt)
      · exact hfull ha hge ▸ .same {}
    · exact hwrong ha ▸ .same {}
  · exact hindex hge ▸ .same {}

/-- A POP that does not stop is one that `popMeaning` speaks of. -/
theorem endsInOrder_pop {q : Fin 8} {s : State} (hb : QueueBounded s q) (a : Agent) (b : Byte) :
    EndsInOrder q s (exec (.pop a b) s) := by
  obtain ⟨hindex, hqueue⟩ := popMeaning a b s
  rcases Nat.lt_or_ge b.toNat 8 with hlt | hge
  · obtain ⟨r, hr⟩ : ∃ r : Fin 8, r.val = b.toNat := ⟨⟨b.toNat, hlt⟩, rfl⟩
    obtain ⟨hwrong, hempty, hentry⟩ := hqueue r hr
    by_cases ha : a = consumer r
    · by_cases hp : s.rmq[r].wp = s.rmq[r].rp
      · exact hempty ha hp ▸ .same {}
      · cases he : s.headEntry r with
        | some e => exact hentry ha hp e he ▸ .next ((keepsOrder_taken hb hp he).then_same {})
        | none =>
          obtain rfl := queueByte_of_toNat hr
          subst ha
          have hstop : exec (.pop (consumer r) (BitVec.ofNat 8 r.val)) s = _ := execPop_unwritten r s hp he
          exact hstop ▸ .fault _
    · exact hwrong ha ▸ .same {}
  · exact hindex hge ▸ .same {}

/-! ## The end of a DSTEP -/

theorem reqQueue_ne_rspQueue (c d : Fin 4) : reqQueue c ≠ rspQueue d := by
  intro h
  have : c.val = 4 + d.val := congrArg Fin.val h
  omega

/-- A response changes its own queue only. -/
theorem respond_queueContents_other {q : Fin 8} {c : Fin 4} (hq : q ≠ rspQueue c) (rsp : Entry) (s : State) :
    queueContents (respond c rsp s) q = queueContents s q := by
  obtain ⟨hroom, hfull⟩ := respond_spec c rsp s
  rcases Nat.lt_or_ge (s.occ (rspQueue c)) s.cfg.queueCapacity with hr | hf
  · obtain ⟨hs, hframe⟩ := hroom hr
    exact hs.queueContents_other (by rw [hframe]) hq
  · rw [hfull hf]
    rfl

theorem respond_keepsOrder {q : Fin 8} {s : State} (hb : QueueBounded s q) (c : Fin 4) (rsp : Entry) :
    KeepsOrder q s (respond c rsp s) := by
  obtain ⟨hroom, hfull⟩ := respond_spec c rsp s
  rcases Nat.lt_or_ge (s.occ (rspQueue c)) s.cfg.queueCapacity with hr | hf
  · obtain ⟨hs, hframe⟩ := hroom hr
    exact hs.keepsOrder (by rw [hframe]) hb hr
  · rw [hfull hf]
    exact .inl rfl

theorem sameQueues_debugNoc (d : DbgNoc) (s : State) : SameQueues s (debugNoc d s).2 := by
  rw [debugNoc_frame]
  exact {}

/-- The dispatch of a request leaves the queues alone until its response, or altogether where LOOP holds (41_dispatch.md R185, R190). -/
theorem dispatchRequest_queues (c : Fin 4) (e : Entry) (s : State) :
    (∃ rsp u, SameQueues s u ∧ dispatchRequest c e s = respond c rsp u) ∨ SameQueues s (dispatchRequest c e s) := by
  cases ht : vget s.disp.table (requestCode e).toNat none with
  | none => exact .inl ⟨_, s, {}, dispatchRequest_none c e s ht⟩
  | some h =>
    rw [dispatchRequest_some c e s h ht]
    cases h with
    | external id => exact .inl ⟨_, _, {}, rfl⟩
    | pingDM =>
      rcases pingDmStart_cases c (s.emit (.handlerCall (requestCode e))) with ⟨_, hp⟩ | ⟨_, hp⟩ <;> dsimp only <;> rw [hp]
      · exact .inl ⟨_, _, {}, rfl⟩
      · exact .inr {}
    | debugNoc => exact .inl ⟨_, _, .trans {} (sameQueues_debugNoc _ _), rfl⟩

theorem dispatchRequest_queueContents_other {q : Fin 8} {c : Fin 4} (hq : q ≠ rspQueue c) (e : Entry) (s : State) :
    queueContents (dispatchRequest c e s) q = queueContents s q := by
  rcases dispatchRequest_queues c e s with ⟨rsp, u, hu, hd⟩ | hd
  · rw [hd, respond_queueContents_other hq, hu.queueContents_eq]
  · exact hd.queueContents_eq q

theorem dispatchRequest_keepsOrder {q : Fin 8} {s : State} (hb : QueueBounded s q) (c : Fin 4) (e : Entry) :
    KeepsOrder q s (dispatchRequest c e s) := by
  rcases dispatchRequest_queues c e s with ⟨rsp, u, hu, hd⟩ | hd
  · have hk := respond_keepsOrder (hu.bounded hb) c rsp
    unfold KeepsOrder at *
    rwa [hd, ← hu.queueContents_eq]
  · exact .inl (hd.queueContents_eq q)

/-- A pop that gave an entry gave the head, and took it. -/
theorem tryPop_got {q : Fin 8} {s u : State} {e : Entry} (h : tryPop q s = .got e u) :
    s.rmq[q].wp ≠ s.rmq[q].rp ∧ s.headEntry q = some e ∧ u = s.taken q := by
  rcases tryPop_cases q s with ⟨_, hp⟩ | ⟨_, _, hp⟩ | ⟨e', hne, he, hp⟩ <;> cases h.symm.trans hp
  exact ⟨hne, he, rfl⟩

/-- A DSTEP takes from the one queue of its channel and gives to the other. -/
theorem endsInOrder_dstep {q : Fin 8} {s : State} (hb : QueueBounded s q) (c : Fin 4) : EndsInOrder q s (dstep c s) := by
  rcases dstep_cases c s with ⟨_, h⟩ | ⟨_, _, h⟩ | ⟨_, _, h⟩ | ⟨e, u, _, hp, h⟩ <;> rw [h]
  · exact .same {}
  · exact .same {}
  · exact .fault _
  · obtain ⟨hne, he, rfl⟩ := tryPop_got hp
    by_cases hq : q = reqQueue c
    · subst hq
      have hsame := dispatchRequest_queueContents_other (reqQueue_ne_rspQueue c c) e (s.taken (reqQueue c))
      refine .next (.inr (.inr ⟨e, ?_⟩))
      rw [hsame, ← he]
      exact queueContents_taken_same hb hne
    · have hb' : QueueBounded (s.taken (reqQueue c)) q := by
        unfold QueueBounded State.occ at *
        rwa [taken_rmq_other s hq]
      have hk := dispatchRequest_keepsOrder hb' c e
      unfold KeepsOrder at hk
      rw [queueContents_taken_other s hq] at hk
      exact .next hk

/-! ## Every instruction and every step -/

theorem sameQueues_receive (m : Record) (s : State) : SameQueues s (receive m s) := by
  rw [receive_frame]
  exact {}

theorem sameQueues_acceptAck (k : Ack) (s : State) : SameQueues s (acceptAck k s) := by
  rw [acceptAck_frame]
  exact {}

theorem sameQueues_selectNext (s : State) : SameQueues s (selectNext s) := by
  rw [selectNext_frame]
  exact {}

theorem sameQueues_initSteps (i n : Nat) (s : State) : SameQueues s (initSteps i n s) := by
  rw [initSteps_frame]
  exact {}

theorem sameQueues_tickTimers (s : State) : SameQueues s (tickTimers s) := by
  rw [tickTimers_frame]
  exact {}

theorem sameQueues_computeTables (op : Byte) (s : State) : SameQueues s (computeTables op s) := by
  rw [computeTables_frame]
  exact {}

/-- Writing the outcome changes no queue. -/
theorem EndsInOrder.finish {q : Fin 8} {s t : State} (h : SameQueues s t) (a : Agent) (r : Result) :
    EndsInOrder q s (.next (t.finish a r)) := .same (h.trans {})

theorem endsInOrder_exec {q : Fin 8} {s : State} (hb : QueueBounded s q) (i : Instr) : EndsInOrder q s (exec i s) := by
  cases i with
  | push a b e => exact endsInOrder_push hb a b e
  | pop a b => exact endsInOrder_pop hb a b
  | stat a v =>
    change EndsInOrder q s (execStat a v s)
    cases hv : s.view v with
    | none => exact execStat_refused a v s hv ▸ .same {}
    | some r => exact execStat_view a v r s hv ▸ .same {}
  | reg a t h => exact .unless_refused _ (.ite _ (.same {}) (.ite _ (.same {}) (.same {})))
  | dpass a => exact .unless_refused _ (endsInOrder_dstep hb 0)
  | post a k v => exact .unless_refused _ (.ite _ (.same {}) (.same {}))
  | poll a => exact .unless_refused _ (.finish (.ite _ {} (sameQueues_selectNext s)) _ _)
  | ackin a k => exact .unless_refused _ (.finish (sameQueues_acceptAck k s) _ _)
  | msgin a m => exact .unless_refused _ (.same (sameQueues_receive m s))
  | pingchk a => exact .unless_refused _ (.ite _ (.same {}) (.same {}))
  | inittick a => exact .unless_refused _ (.finish (.ite _ (sameQueues_initSteps 0 3 s) {}) _ _)
  | tick a => exact .unless_refused _ (.finish (sameQueues_tickTimers s) _ _)
  | setharv a tb g se eb pe => exact .unless_refused _ (.unless_refused _ (.same {}))
  | compute a => exact .unless_refused _ (.unless_refused _ (.finish (sameQueues_computeTables _ s) _ _))
  | start a | readmsg a | program a | clear a => exact .unless_refused _ (.same {})
  | setVoltage c p | powerSetting c p | triggerReset c p | forceFanSpeed c p | pingDM c p | debugNocTranslation c p =>
    exact .next (dispatchRequest_keepsOrder hb c _)
  | nullMsg | resetReq | ping | fanSpeedUpdate | ready | autoResetTimeoutUpdate | heartbeatUpdate | forcedFanSpeedUpdate | pingV2 =>
    exact .same (sameQueues_receive _ s)

theorem endsInOrder_loopTurn {q : Fin 8} {s : State} (hb : QueueBounded s q) : EndsInOrder q s (loopTurn s) := by
  cases hl : s.loop with
  | idle =>
    simp only [loopTurn, hl]
    exact .same {}
  | pass c =>
    simp only [loopTurn, hl]
    exact endsInOrder_dstep hb c
  | heldCheck =>
    simp only [loopTurn, hl]
    exact .ite _ (.same {}) (.same {})
  | heldDispatch c =>
    simp only [loopTurn, hl]
    exact .ite _ (.same {}) (.next (respond_keepsOrder hb c _))

/-- Settles O12: each kind of step but RESET ends with the queue in order; taking the input changes no queue. -/
theorem stepKeepsQueueOrder : Obligations.StepKeepsQueueOrder := by
  unfold Obligations.StepKeepsQueueOrder
  intro s t q _ hb hn hstep
  suffices h : EndsInOrder q s (step s) from h t hstep
  rcases takeInput_cases s with ⟨_, _, h⟩ | ⟨ib, h, _⟩ | ⟨ib, a, bytes, h, _⟩ | ⟨_, h⟩
  · exact step_of_quiet s _ h ▸ .same {}
  · have hb' : QueueBounded { s with inbox := ib } q := hb
    exact step_of_loopGoes s _ h ▸ endsInOrder_loopTurn hb'
  · have hb' : QueueBounded { s with inbox := ib } q := hb
    cases hd : decode s.cfg.kindId (.port a) bytes with
    | ok i => exact step_of_port s _ a bytes i h hd ▸ endsInOrder_exec hb' i
    | error err => exact step_of_port_error s _ a bytes err h hd ▸ .same {}
  · exact absurd h (hn _)

end Sys2Proof.Machine
end

section
/-! PROOF. The dispatch unit's own operations REG and START (O13, O14); DPASS (O15); and a command by the handler registered for its code: none, an external one, `H_PINGDM` or `H_DEBUGNOC` (O17, O18, O19, O21). -/

namespace Sys2Proof.Machine

/-! ## REG and START -/

/-- REG of LOOP in INIT looks at the table only. -/
theorem exec_reg_init {t : Byte} {h : HandlerName} {s : State} (hp : s.disp.phase = .init) :
    exec (.reg .loop t h) s = if vget s.disp.table t.toNat none ≠ none then .next (s.raise .loop ⟨.dupHandler, 0x10, t⟩)
      else .next ({ s with disp := { s.disp with table := vset s.disp.table t.toNat (some h) } }.finish .loop .ok) :=
  if_neg (not_not.mpr hp)

/-- REG of LOOP after START (41_dispatch.md R180). -/
theorem exec_reg_run {t : Byte} {h : HandlerName} {s : State} (hp : s.disp.phase = .run) :
    exec (.reg .loop t h) s = .next (s.raise .loop ⟨.regAfterStart, 0x10, t⟩) :=
  if_pos (by rw [hp]; decide)

/-- Entry `t` of the table names `h`, and no other entry changes. -/
theorem vget_vset_byte {α : Type} (v : Vector α 256) (t k : Byte) (x d : α) :
    vget (vset v t.toNat x) k.toNat d = if k = t then x else vget v k.toNat d := by
  rw [vget_vset]
  exact if_congr ⟨fun h => BitVec.eq_of_toNat_eq h.1, fun h => ⟨congrArg _ h, t.isLt⟩⟩ rfl rfl

/-- Settles O13: the tests of REG in their order, and the one entry it writes. -/
theorem regMeaning : Obligations.RegMeaning := by
  unfold Obligations.RegMeaning
  intro a t h s
  refine ⟨fun ha => if_pos ha, ?afterStart, ?duplicate, ?registered⟩
  case afterStart =>
    rintro rfl hp
    exact ⟨_, exec_reg_run hp, fun f => mem_addFault _ f _, rfl⟩
  case duplicate =>
    rintro rfl hp hdup
    exact ⟨_, (exec_reg_init hp).trans (if_pos hdup), fun f => mem_addFault _ f _, rfl⟩
  case registered =>
    rintro rfl hp hfree
    exact ⟨_, (exec_reg_init hp).trans (if_neg (not_not.mpr hfree)), fun k => vget_vset_byte _ t k _ _, rfl⟩

/-- Settles O14: START tests its agent only. -/
theorem startMeaning : Obligations.StartMeaning := by
  unfold Obligations.StartMeaning
  intro a s
  refine ⟨fun ha => if_pos ha, ?_⟩
  rintro rfl
  rfl

/-! ## DPASS -/

/-- A DSTEP before START faults and ends the pass (41_dispatch.md R185). -/
theorem dstep_before_start {c : Fin 4} {s : State} (hp : s.disp.phase = .init) :
    dstep c s = .next ({ s with loop := .idle }.raise .loop ⟨.dispatchBeforeStart, 0x12, BitVec.ofNat 8 c.val⟩) :=
  if_pos (by rw [hp]; decide)

/-- Settles O15: DPASS of LOOP is `DSTEP(0)`, so after START it is `passGoesOn` on channel 0. -/
theorem dpassMeaning : Obligations.DpassMeaning := by
  unfold Obligations.DpassMeaning
  intro a s
  refine ⟨fun ha => if_pos ha, ?beforeStart, ?empty, ?request⟩
  case beforeStart =>
    rintro rfl hp
    exact ⟨_, dstep_before_start hp, fun f => mem_addFault _ f _, rfl⟩
  case empty =>
    rintro rfl hr he
    exact (passGoesOn s 0 _ (.inl ⟨rfl, rfl⟩) hr).1 he
  case request =>
    rintro e rfl hr hne he
    obtain ⟨hnamed, hnone, hexternal, _, _⟩ := (passGoesOn s 0 _ (.inl ⟨rfl, rfl⟩) hr).2 e hne he
    refine ⟨hnamed, hnone, fun id r hid hreply => ?_⟩
    obtain ⟨t, ht, hran⟩ := hexternal id hid
    exact ⟨t, ht, hran r hreply⟩

/-! ## The commands, by their handler -/

section
variable {c : Fin 4} {code : Byte} {p : Payload} {s : State}

/-- A request built from a code and a payload is dispatched by that code's entry of the table. -/
theorem handler_requestEntry {h : Option HandlerName} (ht : vget s.disp.table code.toNat none = h) :
    vget s.disp.table (requestCode (requestEntry code p)).toNat none = h := by
  rw [requestCode_requestEntry, ht]

theorem ranExternal_command {id : Byte} (ht : vget s.disp.table code.toNat none = some (.external id)) :
    RanExternal c id code (requestEntry code p) s (dispatchRequest c (requestEntry code p) s) := by
  simpa only [requestCode_requestEntry] using ranExternal_dispatchRequest (c := c) (handler_requestEntry (p := p) ht)

theorem ranPingDm_command (ht : vget s.disp.table code.toNat none = some .pingDM) :
    RanPingDm c code s (dispatchRequest c (requestEntry code p) s) := by
  simpa only [requestCode_requestEntry] using ranPingDm_dispatchRequest (c := c) (handler_requestEntry (p := p) ht)

theorem ranDebugNoc_command (ht : vget s.disp.table code.toNat none = some .debugNoc) :
    RanDebugNoc c code (requestEntry code p) s (dispatchRequest c (requestEntry code p) s) := by
  simpa only [requestCode_requestEntry] using ranDebugNoc_dispatchRequest (c := c) (handler_requestEntry (p := p) ht)

end

/-- Settles O17: no handler, so the zero response. -/
theorem unregisteredZero : Obligations.UnregisteredZero := by
  unfold Obligations.UnregisteredZero
  intro c code p i s hi ht
  refine ⟨_, exec_decodeCommand c code p i s hi, ?_⟩
  rw [dispatchRequest_none c _ s (handler_requestEntry ht)]
  exact respond_spec c Entry.zero s

/-- Settles O18: the handler's reply, whatever it is, becomes the response. -/
theorem externalHandlerResponds : Obligations.ExternalHandlerResponds := by
  unfold Obligations.ExternalHandlerResponds
  intro c code p i id r s hi ht hr
  exact ⟨_, exec_decodeCommand c code p i s hi, ranExternal_command ht r hr⟩

/-- Settles O19: `H_PINGDM` by the semaphore. -/
theorem pingDmStarts : Obligations.PingDmStarts := by
  unfold Obligations.PingDmStarts
  intro c code p i s hi ht
  obtain ⟨halive, hholds⟩ := ranPingDm_command (c := c) (p := p) ht _ rfl
  have hexec := exec_decodeCommand c code p i s hi
  exact ⟨fun hs => ⟨_, hexec, halive hs⟩, fun hs => hexec.trans (congrArg _ (hholds hs))⟩

/-- Settles O21: every command registered to `H_DEBUGNOC` runs it, DebugNocTranslation under code 0xDE. -/
theorem debugNocCommand : Obligations.DebugNocCommand := by
  unfold Obligations.DebugNocCommand
  exact ⟨fun _ _ _ ht => ⟨_, rfl, ranDebugNoc_command ht⟩,
    fun c code p i s hi ht => ⟨_, exec_decodeCommand c code p i s hi, ranDebugNoc_command ht⟩⟩

end Sys2Proof.Machine
end

section
/-! PROOF. A ping check ends by its N-th TICK (O40): what a TICK does to a waiting check, what every other transaction does to it, and the count of TICKs over a run. -/

namespace Sys2Proof.Machine

/-! ## The check's own fields -/

/-- From `s` to `t` the ping check was neither started, counted down nor ended. -/
structure SameCheck (s t : State) : Prop where
  wait : t.tmr.pingWait = s.tmr.pingWait := by rfl
  remaining : t.tmr.pingRemaining = s.tmr.pingRemaining := by rfl

theorem SameCheck.trans {s t u : State} (h : SameCheck s t) (k : SameCheck t u) : SameCheck s u :=
  ⟨k.wait.trans h.wait, k.remaining.trans h.remaining⟩

theorem SameCheck.ite {s t u : State} (p : Prop) [Decidable p] (ht : SameCheck s t) (hu : SameCheck s u) :
    SameCheck s (if p then t else u) :=
  iteInduction (fun _ => ht) (fun _ => hu)

theorem sameCheck_rstTick (s : State) : SameCheck s (rstTick s) := by
  rw [rstTick_eq]
  exact {}

theorem sameCheck_wdTick (free : Bool) (s : State) : SameCheck s (wdTick free s) := by
  rw [wdTick_eq]
  exact {}

theorem sameCheck_ownEffect (ids : KindIds) (id : Byte) (d : Word) (s : State) : SameCheck s (ownEffect ids id d s) := by
  unfold ownEffect
  refine .ite _ ?reset (.ite _ ?watchdog (.ite _ ?heartbeat {}))
  case reset =>
    rw [resetPath]
    exact .ite _ {} {}
  case watchdog =>
    rw [wdSet_eq]
    exact {}
  case heartbeat =>
    rw [heartbeat_eq]
    exact {}

/-- No record that TRANSPORT delivers touches the check: an answer to a Ping comes as an ack (42_cm2dm.md R237, R259). -/
theorem sameCheck_receive (m : Record) (s : State) : SameCheck s (receive m s) := by
  by_cases h0 : m.id = 0
  · rw [receive, if_pos h0]
    exact {}
  · cases hd : isDuplicate m s with
    | true =>
      rw [receive_duplicate m s h0 hd]
      exact {}
    | false =>
      by_cases hk : s.cfg.kindCount ≤ m.id.toNat
      · rw [receive_unknown m s h0 hk hd]
        exact {}
      · rw [receive_new m s h0 (Nat.lt_of_not_le hk) hd]
        have hown := sameCheck_ownEffect s.cfg.kindId m.id m.data
        exact ⟨(hown _).wait, (hown _).remaining⟩

/-! ## A TICK of a waiting check -/

/-- The timers that a TICK runs before the check's leave the check alone (42_cm2dm.md R250). -/
theorem tickTimers_eq_pingTick {s : State} (hw : s.tmr.pingWait = true) : ∃ u, SameCheck s u ∧ tickTimers s = pingTick u := by
  have hrst : SameCheck s (if s.tmr.rstPending then rstTick s else s) := .ite _ (sameCheck_rstTick s) {}
  exact ⟨_, hrst.trans (.ite _ (sameCheck_wdTick _ _) {}), if_pos hw⟩

/-- The last TICK of a check ends it with TIMEOUT (42_cm2dm.md R253). -/
theorem tickTimers_ends_check {s : State} (hw : s.tmr.pingWait = true) (h1 : s.tmr.pingRemaining = 1) :
    (tickTimers s).tmr.pingWait = false ∧ (tickTimers s).tmr.pingResult = .timeout := by
  obtain ⟨u, hu, ht⟩ := tickTimers_eq_pingTick hw
  have hu1 : u.tmr.pingRemaining = 1 := hu.remaining.trans h1
  rw [ht, pingTick_eq]
  exact ⟨if_pos hu1, if_pos hu1⟩

/-- Any other TICK counts it down (42_cm2dm.md R253). -/
theorem tickTimers_counts_down {s : State} (hw : s.tmr.pingWait = true) (h1 : s.tmr.pingRemaining ≠ 1) :
    (tickTimers s).tmr.pingWait = true ∧ (tickTimers s).tmr.pingRemaining = s.tmr.pingRemaining - 1 := by
  obtain ⟨u, hu, ht⟩ := tickTimers_eq_pingTick hw
  have hu1 : u.tmr.pingRemaining ≠ 1 := by rwa [hu.remaining]
  rw [ht, pingTick_eq, ← hu.remaining]
  exact ⟨(if_neg hu1).trans (hu.wait.trans hw), rfl⟩

theorem tickTimers_loop (s : State) : (tickTimers s).loop = s.loop := by rw [tickTimers_frame]

theorem exec_tick_timebase (s : State) : exec (.tick .timebase) s = .next ((tickTimers s).finish .timebase .ok) := rfl

theorem afterTicks_succ (n : Nat) (s : State) : afterTicks (n + 1) s = afterTicks n ((tickTimers s).finish .timebase .ok) := rfl

/-- A check that waits ends with TIMEOUT after as many TICKs as it has left, with nothing between them (42_cm2dm.md R253, R261). -/
theorem afterTicks_timeout {n : Nat} {s : State} (hw : s.tmr.pingWait = true) (hn : s.tmr.pingRemaining.toNat = n + 1) :
    ∃ u, afterTicks (n + 1) s = some u ∧ u.loop = s.loop ∧ u.tmr.pingWait = false ∧ u.tmr.pingResult = .timeout := by
  induction n generalizing s with
  | zero =>
    exact ⟨_, rfl, tickTimers_loop s, tickTimers_ends_check hw (BitVec.eq_of_toNat_eq hn)⟩
  | succ n ih =>
    have h1 : s.tmr.pingRemaining ≠ 1 := by
      intro h
      rw [h] at hn
      simp at hn
    obtain ⟨hw', hr'⟩ := tickTimers_counts_down hw h1
    have hn' : ((tickTimers s).finish .timebase .ok).tmr.pingRemaining.toNat = n + 1 := by
      rw [State.finish_tmr, hr', counter_down _ (by omega)]
      omega
    obtain ⟨u, hu, hl, hend⟩ := ih (s := (tickTimers s).finish .timebase .ok) hw' hn'
    exact ⟨u, hu, hl.trans (tickTimers_loop s), hend⟩

/-- A check that starts with `PING_TIMEOUT_TICKS` to wait. -/
theorem afterTicks_pingTimeout {s : State} {ticks : Word} (hpos : 1 ≤ ticks.toNat) (hw : s.tmr.pingWait = true)
    (hr : s.tmr.pingRemaining = ticks) :
    ∃ u, afterTicks ticks.toNat s = some u ∧ u.loop = s.loop ∧ u.tmr.pingWait = false ∧ u.tmr.pingResult = .timeout := by
  obtain ⟨n, hn⟩ := Nat.exists_eq_add_of_le' hpos
  rw [hn]
  exact afterTicks_timeout hw (by rw [hr, hn])

/-! ## How a check starts -/

/-- PINGCHK answers at once or starts to wait (42_cm2dm.md R260). -/
theorem exec_pingchk_loop (s : State) : exec (.pingchk .loop) s = if 0 < s.tmr.sem.toNat then .next ((takeSem s).finish .loop .alive)
    else .next { armPing s with loop := .heldCheck, out := some (.loop, .hold) } := rfl

theorem Responded.loop_eq {c : Fin 4} {rsp : Entry} {s t : State} (h : Responded c rsp s t) : t.loop = afterDstep c := by
  obtain ⟨hroom, hfull⟩ := h
  rcases Nat.lt_or_ge (s.occ (rspQueue c)) s.cfg.queueCapacity with hlt | hge
  · rw [(hroom hlt).2]
  · rw [hfull hge]

/-! ## Every other transaction of a waiting check -/

/-- Where a transaction that starts in `s` has a next state, it has ended the check or left it alone. -/
def LeavesCheck (s : State) (o : Host.Outcome State Fault Refusal) : Prop :=
  ∀ t, o = .next t → t.tmr.pingWait = false ∨ SameCheck s t

theorem LeavesCheck.next {s t : State} (h : t.tmr.pingWait = false ∨ SameCheck s t) : LeavesCheck s (.next t) := by
  rintro _ ⟨⟩
  exact h

theorem LeavesCheck.same {s t : State} (h : SameCheck s t) : LeavesCheck s (.next t) := .next (.inr h)

theorem LeavesCheck.fault (s : State) (f : Fault) : LeavesCheck s (.fault f) := by
  intro t h
  cases h

theorem LeavesCheck.refuse (a : Agent) (s : State) : LeavesCheck s (.next (s.refuse a)) := .same {}

theorem LeavesCheck.unless_refused {s : State} (p : Prop) [Decidable p] {a : Agent} {o : Host.Outcome State Fault Refusal}
    (h : LeavesCheck s o) : LeavesCheck s (if p then .next (s.refuse a) else o) :=
  iteInduction (fun _ => .refuse a s) (fun _ => h)

theorem leavesCheck_execPush (a : Agent) (q : Byte) (e : Entry) (s : State) : LeavesCheck s (execPush a q e s) := by
  unfold execPush
  split
  · refine .unless_refused _ ?_
    split
    · exact .same {}
    · next hp =>
      obtain ⟨_, _, ht⟩ := tryPush_spec _ _ _ _ hp
      rw [ht]
      exact .same {}
  · exact .refuse a s

theorem leavesCheck_execPop (a : Agent) (q : Byte) (s : State) : LeavesCheck s (execPop a q s) := by
  unfold execPop
  split
  · next hq =>
    refine .unless_refused _ ?_
    rcases tryPop_found ⟨q.toNat, hq⟩ s with ⟨_, hp⟩ | ⟨_, _, hp⟩ | ⟨e, _, hp⟩ <;> simp only [hp]
    · exact .same {}
    · exact .fault s _
    · exact .same {}
  · exact .refuse a s

theorem leavesCheck_execStat (a : Agent) (v : StatView) (s : State) : LeavesCheck s (execStat a v s) := by
  unfold execStat
  split
  · exact .refuse a s
  · exact .same {}

theorem leavesCheck_execPoll (a : Agent) (s : State) : LeavesCheck s (execPoll a s) := by
  refine .unless_refused _ (.same ?_)
  refine SameCheck.trans (.ite _ {} ?_) {}
  rw [selectNext_frame]
  exact {}

/-- SEM_GIVE ends a check that waits (42_cm2dm.md R259). -/
theorem semGive_pingWait (s : State) : (semGive s).tmr.pingWait = false := by
  rw [semGive_eq]
  cases hw : s.tmr.pingWait with
  | true => rfl
  | false => exact hw

theorem leavesCheck_execAckin (a : Agent) (k : Ack) (s : State) : LeavesCheck s (execAckin a k s) := by
  refine .unless_refused _ (.next ?_)
  rw [State.finish_tmr, acceptAck]
  split
  · split
    · exact .inl (semGive_pingWait _)
    · exact .inr {}
  · exact .inr {}

/-- No operation of another agent but a TICK of TIMEBASE counts a check down (20_memory.md R97, R104). -/
theorem leavesCheck_exec {i : Instr} {a : Agent} (s : State) (hi : sourceOf i = .port a) (ha : a ≠ .loop) (ht : i ≠ .tick .timebase) :
    LeavesCheck s (exec i s) := by
  cases h : agentAllowed i with
  | false =>
    rw [exec_of_not_agentAllowed s hi h]
    exact .refuse a s
  | true =>
    cases i with
    | push b q e => exact leavesCheck_execPush b q e s
    | pop b q => exact leavesCheck_execPop b q s
    | stat b v => exact leavesCheck_execStat b v s
    | poll b => exact leavesCheck_execPoll b s
    | readmsg b => exact .unless_refused _ (.same {})
    | ackin b k => exact leavesCheck_execAckin b k s
    | msgin b m => exact .unless_refused _ (.same (sameCheck_receive m s))
    | tick b => exact absurd (congrArg Instr.tick (of_decide_eq_true h)) ht
    | reg b | start b | dpass b | post b | pingchk b | inittick b | setharv b | compute b | program b | clear b =>
      obtain rfl := Source.port.inj hi
      exact absurd (of_decide_eq_true h) ha
    | setVoltage | powerSetting | triggerReset | forceFanSpeed | pingDM | debugNocTranslation => cases hi
    | nullMsg | resetReq | ping | fanSpeedUpdate | ready | autoResetTimeoutUpdate | heartbeatUpdate | forcedFanSpeedUpdate | pingV2 => cases hi

/-! ## A step of a waiting check -/

/-- LOOP still holds in `t`, with `d` fewer TICKs left than in `s`, and at least one. -/
structure WaitsOn (d : Nat) (s t : State) : Prop where
  holds : held t = true
  left : 1 ≤ t.tmr.pingRemaining.toNat
  count : t.tmr.pingRemaining.toNat + d = s.tmr.pingRemaining.toNat

/-- 1 for a step that is a TICK of TIMEBASE, else 0: what `runSteps` counts. -/
def tickCount (s : State) : Nat := if takesTick s then 1 else 0

theorem runSteps_succ {s s' : State} (n : Nat) (h : step s = .next s') :
    runSteps (n + 1) s = (runSteps n s').map (fun p => (p.1 + tickCount s, p.2)) := by
  simp only [runSteps, h]
  rfl

theorem takesTick_port {s u : State} {a : Agent} {bytes : List Byte} (h : takeInput s = .port a bytes u) :
    takesTick s = decide (decode u.cfg.kindId (.port a) bytes = .ok (.tick .timebase)) := by
  simp only [takesTick, h]

/-- LOOP that holds waits for a check (42_cm2dm.md R260). -/
theorem pingWait_of_held {s : State} (h : held s = true) : s.tmr.pingWait = true := by
  unfold held at h
  split at h
  · exact h
  · exact h
  · cases h

/-- What is left alone waits on. -/
theorem WaitsOn.of_same {s t : State} (hh : held s = true) (hr : 1 ≤ s.tmr.pingRemaining.toNat) (hl : t.loop = s.loop)
    (h : SameCheck s t) : WaitsOn 0 s t := by
  refine ⟨(held_congr hl h.wait).trans hh, ?_, ?_⟩ <;> rw [h.remaining]
  · exact hr
  · rfl

/-- A TICK of TIMEBASE ends the check or counts it down by one (42_cm2dm.md R253). -/
theorem tick_ends_or_waits {s : State} (hh : held s = true) (hr : 1 ≤ s.tmr.pingRemaining.toNat) :
    (tickTimers s).tmr.pingWait = false ∨ WaitsOn 1 s (tickTimers s) := by
  have hw := pingWait_of_held hh
  by_cases h1 : s.tmr.pingRemaining = 1
  · exact .inl (tickTimers_ends_check hw h1).1
  · obtain ⟨hw', hr'⟩ := tickTimers_counts_down hw h1
    refine .inr ⟨(held_congr (tickTimers_loop s) (hw'.trans hw.symm)).trans hh, ?_, ?_⟩
    · rw [hr']
      exact counter_left _ hr h1
    · rw [hr', counter_down _ hr]
      omega

/-- An agent's operation ends a check that waits, or leaves it waiting with one TICK fewer exactly where it is a TICK. -/
theorem port_ends_or_waits {s t : State} {ib : List Input} {a : Agent} {bytes : List Byte} (hh : held s = true)
    (hr : 1 ≤ s.tmr.pingRemaining.toNat) (h : takeInput s = .port a bytes { s with inbox := ib }) (hs : step s = .next t) :
    t.tmr.pingWait = false ∨ WaitsOn (tickCount s) s t := by
  have hbusy : s.loop ≠ .idle := fun hl => by rw [held_idle s hl] at hh; cases hh
  have ha : a ≠ .loop := takeInput_busy_agent hbusy h
  have htick := takesTick_port h
  by_cases hd : decode s.cfg.kindId (.port a) bytes = .ok (.tick .timebase)
  · have hcount : tickCount s = 1 := if_pos (htick.trans (decide_eq_true hd))
    obtain rfl := Host.Outcome.next.inj (((step_of_port s _ a bytes _ h hd).trans (exec_tick_timebase _)).symm.trans hs)
    rw [hcount]
    exact (tick_ends_or_waits (s := { s with inbox := ib }) hh hr).imp_right (fun w => ⟨w.holds, w.left, w.count⟩)
  · have hcount : tickCount s = 0 := if_neg (Bool.eq_false_iff.mp (htick.trans (decide_eq_false hd)))
    obtain ⟨hloop, _⟩ := leavesLoop_step s _ a bytes ha h t hs
    have hleaves : LeavesCheck { s with inbox := ib } (step s) := by
      cases hok : decode s.cfg.kindId (.port a) bytes with
      | ok i =>
        rw [step_of_port s _ a bytes i h hok]
        exact leavesCheck_exec _ (sourceOf_decodePort hok) ha (fun hi => hd (hi ▸ hok))
      | error err =>
        rw [step_of_port_error s _ a bytes err h hok]
        exact .refuse a _
    rw [hcount]
    exact (hleaves t hs).imp_right (fun same => .of_same hh hr hloop ⟨same.wait, same.remaining⟩)

/-- Every step of a check that waits ends it, or leaves it waiting with one TICK fewer exactly where the step is a TICK. -/
theorem step_ends_or_waits {s t : State} (hh : held s = true) (hr : 1 ≤ s.tmr.pingRemaining.toNat) (hs : step s = .next t) :
    t.tmr.pingWait = false ∨ WaitsOn (tickCount s) s t := by
  rcases takeInput_cases s with ⟨ib, g, h⟩ | ⟨ib, h, _⟩ | ⟨ib, a, bytes, h, _⟩ | ⟨ib, h⟩
  · have hcount : tickCount s = 0 := by
      simp only [tickCount, takesTick, h]
      rfl
    obtain rfl := Host.Outcome.next.inj ((step_of_quiet s _ h).symm.trans hs)
    rw [hcount]
    exact .inr (.of_same hh hr rfl {})
  · exact absurd h (takeInput_held_ne_loopGoes hh _)
  · exact port_ends_or_waits hh hr h hs
  · obtain rfl := Host.Outcome.next.inj ((step_of_reset s _ h).symm.trans hs)
    exact .inl rfl

/-! ## Runs -/

/-- In a run with as many TICKs as a waiting check has left, there is a moment, after at most so many of them, at which it waits no longer (42_cm2dm.md R261). -/
theorem runSteps_ends_check {n k : Nat} {s t : State} (hh : held s = true) (hr : 1 ≤ s.tmr.pingRemaining.toNat)
    (hrun : runSteps n s = some (k, t)) (hk : s.tmr.pingRemaining.toNat ≤ k) :
    ∃ (m j : Nat) (u : State), m ≤ n ∧ runSteps m s = some (j, u) ∧ j ≤ s.tmr.pingRemaining.toNat ∧ u.tmr.pingWait = false := by
  induction n generalizing k s with
  | zero =>
    obtain ⟨rfl, _⟩ := Prod.mk.inj (Option.some.inj hrun)
    omega
  | succ n ih =>
    cases hs : step s with
    | fault f => simp [runSteps, hs] at hrun
    | refused r => simp [runSteps, hs] at hrun
    | next s' =>
      rcases step_ends_or_waits hh hr hs with hend | hwaits
      · refine ⟨1, tickCount s, s', by omega, ?_, ?_, hend⟩
        · rw [runSteps_succ 0 hs, runSteps, Option.map_some, Nat.zero_add]
        · exact le_trans (by unfold tickCount; split <;> omega) hr
      · rw [runSteps_succ n hs] at hrun
        obtain ⟨⟨k', t'⟩, hrun', hsum⟩ := Option.map_eq_some_iff.mp hrun
        obtain ⟨rfl, rfl⟩ := Prod.mk.inj hsum
        have hcount := hwaits.count
        obtain ⟨m, j, u, hm, hu, hj, hend⟩ := ih hwaits.holds hwaits.left hrun' (by omega)
        refine ⟨m + 1, j + tickCount s, u, by omega, ?_, by omega, hend⟩
        rw [runSteps_succ m hs, hu, Option.map_some]

/-- Settles O40: a check that does not answer at once starts with all its TICKs to wait, and every run with as many TICKs ends it. -/
theorem pingTerminates : Obligations.PingTerminates := by
  unfold Obligations.PingTerminates
  refine ⟨?pingchk, ?pingDm, fun s t n k => runSteps_ends_check⟩
  case pingchk =>
    intro s t hpos hexec
    rw [exec_pingchk_loop] at hexec
    split at hexec <;> obtain rfl := Host.Outcome.next.inj hexec
    · exact .inl rfl
    · obtain ⟨u, hu, _, hend⟩ := afterTicks_pingTimeout hpos (s := { armPing s with loop := .heldCheck, out := some (.loop, .hold) }) rfl rfl
      exact .inr ⟨u, hu, hend⟩
  case pingDm =>
    intro c code p i s t hpos hi ht hexec
    obtain rfl := Host.Outcome.next.inj ((exec_decodeCommand c code p i s hi).symm.trans hexec)
    obtain ⟨halive, hholds⟩ := ranPingDm_command (c := c) (p := p) ht _ rfl
    by_cases hsem : s.tmr.sem = 0
    · have hwaits := hholds hsem
      obtain ⟨u, hu, hl, hend⟩ := afterTicks_pingTimeout hpos (congrArg (·.tmr.pingWait) hwaits) (congrArg (·.tmr.pingRemaining) hwaits)
      exact .inr ⟨u, hu, hl.trans (congrArg (·.loop) hwaits), hend⟩
    · exact .inl ⟨hsem, (halive hsem).loop_eq⟩

end Sys2Proof.Machine
end

section
/-! PROOF. The transmit half: SELECT's scan and the POLL that runs it (O23, O24), READMSG (O25), POST (O22, O27) and ACKIN (O26). -/

namespace Sys2Proof.Machine

/-! ## SELECT's scan -/

/-- One turn around a ring of `n` places. -/
theorem mod_of_lt_two_mul {x n : Nat} (h : x < 2 * n) : x % n = if x < n then x else x - n := by
  split
  · next hlt => exact Nat.mod_eq_of_lt hlt
  · next hge => rw [Nat.mod_eq_sub_mod (Nat.le_of_not_lt hge), Nat.mod_eq_of_lt (by omega)]

section
variable {s : State} {j k : Nat}

theorem scanDistance_lt (hc : s.tx.nextIdRr < s.cfg.kindCount) (k : Nat) : scanDistance s k < s.cfg.kindCount :=
  Nat.mod_lt _ (Nat.zero_lt_of_lt hc)

/-- The kind at the `i`-th place of the scan is `i` away from the cursor (42_cm2dm.md R213). -/
theorem scanDistance_place {i : Nat} (hc : s.tx.nextIdRr < s.cfg.kindCount) (hi : i < s.cfg.kindCount) :
    scanDistance s ((s.tx.nextIdRr + i) % s.cfg.kindCount) = i := by
  have hlt : (s.tx.nextIdRr + i) % s.cfg.kindCount < s.cfg.kindCount := Nat.mod_lt _ (Nat.zero_lt_of_lt hc)
  rw [scanDistance, mod_of_lt_two_mul (by omega), mod_of_lt_two_mul (x := s.tx.nextIdRr + i) (by omega)]
  split <;> split <;> omega

/-- Every kind stands in the scan at its distance from the cursor. -/
theorem place_scanDistance (hc : s.tx.nextIdRr < s.cfg.kindCount) (hk : k < s.cfg.kindCount) :
    (s.tx.nextIdRr + scanDistance s k) % s.cfg.kindCount = k := by
  have hlt := scanDistance_lt hc k
  rw [mod_of_lt_two_mul (by omega), scanDistance, mod_of_lt_two_mul (by omega)]
  split <;> split <;> omega

theorem scanDistance_injective (hc : s.tx.nextIdRr < s.cfg.kindCount) (hj : j < s.cfg.kindCount) (hk : k < s.cfg.kindCount)
    (h : scanDistance s j = scanDistance s k) : j = k := by
  rw [← place_scanDistance hc hj, h, place_scanDistance hc hk]

/-- A cursor just past kind `j` brings every kind behind `j` in the scan closer (42_cm2dm.md R213, R220). -/
theorem scanDistance_past {t : State} (hc : s.tx.nextIdRr < s.cfg.kindCount) (hj : j < s.cfg.kindCount) (hk : k < s.cfg.kindCount)
    (hcfg : t.cfg = s.cfg) (hcursor : t.tx.nextIdRr = (j + 1) % s.cfg.kindCount) (h : scanDistance s j < scanDistance s k) :
    scanDistance t k < scanDistance s k := by
  have hbound := scanDistance_lt hc k
  have hplace : (t.tx.nextIdRr + (scanDistance s k - scanDistance s j - 1)) % t.cfg.kindCount = k := by
    calc (t.tx.nextIdRr + (scanDistance s k - scanDistance s j - 1)) % t.cfg.kindCount
      _ = ((s.tx.nextIdRr + scanDistance s j) % s.cfg.kindCount + 1 + (scanDistance s k - scanDistance s j - 1)) % s.cfg.kindCount := by
        rw [hcfg, hcursor, place_scanDistance hc hj, Nat.mod_add_mod]
      _ = (s.tx.nextIdRr + scanDistance s k) % s.cfg.kindCount := by
        rw [Nat.add_assoc, Nat.mod_add_mod]
        congr 1
        omega
      _ = k := place_scanDistance hc hk
  have hcursorLt : t.tx.nextIdRr < t.cfg.kindCount := by
    rw [hcfg, hcursor]
    exact Nat.mod_lt _ (Nat.zero_lt_of_lt hc)
  have hdistance := scanDistance_place hcursorLt (i := scanDistance s k - scanDistance s j - 1) (by rw [hcfg]; omega)
  rw [hplace] at hdistance
  omega

/-- Of the pending kinds the scan finds the one closest to the cursor (42_cm2dm.md R213). -/
theorem scanPending_closest (hc : s.tx.nextIdRr < s.cfg.kindCount) (h : scanPending s = some k) :
    k < s.cfg.kindCount ∧ vget s.tx.pending k false = true
      ∧ ∀ j, j < s.cfg.kindCount → vget s.tx.pending j false = true → scanDistance s k ≤ scanDistance s j := by
  rw [scanPending, List.find?_map] at h
  obtain ⟨i, hfind, rfl⟩ := Option.map_eq_some_iff.mp h
  obtain ⟨hpending, hmem, hfirst⟩ := List.find?_range_eq_some.mp hfind
  refine ⟨Nat.mod_lt _ (Nat.zero_lt_of_lt hc), hpending, fun j hj hp => ?_⟩
  rw [scanDistance_place hc (List.mem_range.mp hmem)]
  by_contra hcloser
  have hnot := hfirst (scanDistance s j) (Nat.lt_of_not_le hcloser)
  simp [place_scanDistance hc hj, hp] at hnot

/-- The scan finds a kind where one is pending. -/
theorem scanPending_exists (hc : s.tx.nextIdRr < s.cfg.kindCount) (hk : k < s.cfg.kindCount) (hp : vget s.tx.pending k false = true) :
    ∃ j, scanPending s = some j := by
  refine Option.ne_none_iff_exists'.mp (fun hnone => ?_)
  have hnot := scanPending_none s hnone _ (scanDistance_lt hc k)
  rw [place_scanDistance hc hk, hp] at hnot
  cases hnot

/-- A pending kind that is closest is the one found: no two kinds are as close. -/
theorem scanPending_of_closest (hc : s.tx.nextIdRr < s.cfg.kindCount) (hk : k < s.cfg.kindCount) (hp : vget s.tx.pending k false = true)
    (hmin : ∀ j, j < s.cfg.kindCount → vget s.tx.pending j false = true → scanDistance s k ≤ scanDistance s j) :
    scanPending s = some k := by
  obtain ⟨j, hj⟩ := scanPending_exists hc hk hp
  obtain ⟨hjlt, hjp, hjmin⟩ := scanPending_closest hc hj
  rw [hj, scanDistance_injective hc hjlt hk (Nat.le_antisymm (hjmin k hk hp) (hmin j hjlt hjp))]

theorem scanPending_eq_none (h : ∀ k, k < s.cfg.kindCount → vget s.tx.pending k false = false) : scanPending s = none := by
  refine List.find?_eq_none.mpr (fun k hk => ?_)
  obtain ⟨i, hi, rfl⟩ := List.mem_map.mp hk
  rw [h _ (Nat.mod_lt _ (Nat.zero_lt_of_lt (List.mem_range.mp hi)))]
  exact Bool.false_ne_true

/-- SELECT with nothing to select. -/
theorem selectNext_of_none (h : scanPending s = none) : selectNext s = s := by
  simp only [selectNext, h]

/-- SELECT of kind `k` (42_cm2dm.md R213). -/
theorem selectNext_of_some (h : scanPending s = some k) : selectNext s = { s with
    tx := { s.tx with
      pending := vset s.tx.pending k false
      seq := s.tx.seq + 1
      inflight := ⟨true, BitVec.ofNat 8 k, s.tx.seq + 1, vget s.tx.value k 0⟩
      nextIdRr := (k + 1) % s.cfg.kindCount } } := by
  simp only [selectNext, h]

/-- The selected kind, and only it, is pending no longer; a place outside the array is never pending. -/
theorem pending_vset_false (v : Vector Bool 256) (k j : Nat) :
    vget (vset v k false) j false = if j = k then false else vget v j false := by
  by_cases hj : j = k
  · subst hj
    rcases Nat.lt_or_ge j 256 with hlt | hge
    · rw [vget_vset_same v j false false hlt, if_pos rfl]
    · rw [vget_of_ge _ j false hge, if_pos rfl]
  · rw [vget_vset_other v k j false false hj, if_neg hj]

/-! ## POLL and READMSG -/

theorem record_of_valid (h : s.tx.inflight.valid = true) :
    s.record = ⟨s.tx.inflight.kind, s.tx.inflight.seq, s.tx.inflight.data⟩ := if_pos h

theorem record_of_not_valid (h : s.tx.inflight.valid = false) : s.record = ⟨0, 0, 0⟩ := if_neg (by simp [h])

theorem exec_poll_allowed {a : Agent} (ha : a = .loop ∨ a = .transport) (s : State) :
    exec (.poll a) s = .next ((if s.tx.inflight.valid then s else selectNext s).finish a
      (.record (if s.tx.inflight.valid then s else selectNext s).record)) :=
  if_neg (not_and_or.mpr (ha.imp not_not.mpr not_not.mpr))

/-- POLL with a message in flight redelivers it (42_cm2dm.md R212, R215). -/
theorem exec_poll_inflight {a : Agent} (ha : a = .loop ∨ a = .transport) (h : s.tx.inflight.valid = true) :
    exec (.poll a) s = .next (s.finish a (.record ⟨s.tx.inflight.kind, s.tx.inflight.seq, s.tx.inflight.data⟩)) := by
  rw [exec_poll_allowed ha, if_pos h, record_of_valid h]

/-- POLL with nothing in flight selects (42_cm2dm.md R212). -/
theorem exec_poll_selects {a : Agent} (ha : a = .loop ∨ a = .transport) (h : s.tx.inflight.valid = false) :
    exec (.poll a) s = .next ((selectNext s).finish a (.record (selectNext s).record)) := by
  rw [exec_poll_allowed ha, if_neg (by simp [h])]

theorem exec_readmsg_transport (s : State) : exec (.readmsg .transport) s = .next (s.finish .transport (.record s.record)) := rfl

end

/-- Settles O23: POLL redelivers or selects, and the kind closest to the cursor is the one that SELECT's scan finds. -/
theorem pollMeaning : Obligations.PollMeaning := by
  unfold Obligations.PollMeaning
  intro a s
  refine ⟨fun hl ht => if_pos ⟨hl, ht⟩, fun ha => ⟨exec_poll_inflight ha, ?nothing, ?selected⟩⟩
  case nothing =>
    intro hv hnone
    rw [exec_poll_selects ha hv, selectNext_of_none (scanPending_eq_none hnone), record_of_not_valid hv]
    rfl
  case selected =>
    intro k hv hc hk hp hmin
    have hselect := selectNext_of_some (scanPending_of_closest hc hk hp hmin)
    refine ⟨_, exec_poll_selects ha hv, fun j => ?_, ?_⟩ <;> rw [hselect]
    · exact pending_vset_false s.tx.pending k j
    · rfl

/-- Settles O24: a kind that SELECT passes over is behind the one selected, so the cursor, which moves past that one, comes closer. -/
theorem pendingKindComesCloser : Obligations.PendingKindComesCloser := by
  unfold Obligations.PendingKindComesCloser
  intro a s t k hv hc hk hp ha ht
  refine ⟨scanDistance_lt hc k, ?_⟩
  obtain rfl := Host.Outcome.next.inj ((exec_poll_selects (of_decide_eq_true ha) hv).symm.trans ht)
  obtain ⟨j, hj⟩ := scanPending_exists hc hk hp
  obtain ⟨hjlt, _, hjmin⟩ := scanPending_closest hc hj
  rw [selectNext_of_some hj]
  by_cases hjk : k = j
  · exact .inl (by rw [hjk]; rfl)
  · refine .inr ⟨(vget_vset_other s.tx.pending j k false false hjk).trans hp, ?_⟩
    have hcloser : scanDistance s j < scanDistance s k :=
      Nat.lt_of_le_of_ne (hjmin k hk hp) (fun h => hjk (scanDistance_injective hc hjlt hk h).symm)
    exact scanDistance_past hc hjlt hk rfl rfl hcloser

/-- Settles O25: READMSG shows `RECORD()` and writes nothing, and so does POLL while a message is in flight. -/
theorem readmsgAndRedelivery : Obligations.ReadmsgAndRedelivery := by
  unfold Obligations.ReadmsgAndRedelivery
  intro a s
  refine ⟨fun ha => if_pos ha, ?null, ?inflight⟩
  case null =>
    rintro rfl hv
    rw [exec_readmsg_transport, record_of_not_valid hv]
    rfl
  case inflight =>
    rintro hv m rfl
    refine ⟨?_, fun ha => exec_poll_inflight ha hv⟩
    rintro rfl
    rw [exec_readmsg_transport, record_of_valid hv]
    rfl

/-! ## POST -/

/-- POST of LOOP by the kind's range (42_cm2dm.md R210, R211). -/
theorem exec_post_loop (k : Byte) (v : Word) (s : State) :
    exec (.post .loop k v) s = if k = 0 ∨ s.cfg.kindCount ≤ k.toNat then .next (s.raise .loop ⟨.badKind, 0x20, k⟩)
      else .next ((setPending k v s).finish .loop .ok) := rfl

theorem exec_post_known {k : Byte} {s : State} (h0 : k ≠ 0) (hk : k.toNat < s.cfg.kindCount) (v : Word) :
    exec (.post .loop k v) s = .next ((setPending k v s).finish .loop .ok) :=
  if_neg (not_or.mpr ⟨h0, Nat.not_le.mpr hk⟩)

/-- Settles O22: the agent, then the kind's range, then the kind's two places. -/
theorem postMeaning : Obligations.PostMeaning := by
  unfold Obligations.PostMeaning
  intro a k v s
  refine ⟨fun ha => if_pos ha, ?badKind, ?posted⟩
  case badKind =>
    rintro rfl hk
    exact ⟨_, (exec_post_loop k v s).trans (if_pos hk), fun f => mem_addFault _ f _, rfl⟩
  case posted =>
    rintro rfl h0 hk
    exact ⟨_, exec_post_known h0 hk v, fun j => vget_vset_byte _ k j _ _, fun j => vget_vset_byte _ k j _ _, rfl⟩

/-- The second of two posts of a kind overwrites the first (42_cm2dm.md R219). -/
theorem setPending_setPending (k : Byte) (v1 v2 : Word) (s : State) : setPending k v2 (setPending k v1 s) = setPending k v2 s := by
  simp only [setPending, vset_vset]

/-- Settles O27: posts of one kind overwrite each other, and none reads or writes the in-flight record. -/
theorem lastValueWins : Obligations.LastValueWins := by
  unfold Obligations.LastValueWins
  intro k v1 v2 s t h0 hk ht
  obtain rfl := Host.Outcome.next.inj ((exec_post_known h0 hk v1).symm.trans ht)
  have hk1 : k.toNat < ((setPending k v1 s).finish .loop .ok).cfg.kindCount := hk
  refine ⟨?_, rfl⟩
  rw [exec_post_known h0 hk1, exec_post_known h0 hk, ← setPending_setPending k v1 v2 s]
  rfl

/-! ## ACKIN -/

section
variable {k : Ack} {s : State}

theorem exec_ackin_transport (k : Ack) (s : State) : exec (.ackin .transport k) s = .next ((acceptAck k s).finish .transport .ok) := rfl

theorem acceptAck_mismatch (h : ¬(s.tx.inflight.valid = true ∧ k.id = s.tx.inflight.kind ∧ k.seq = s.tx.inflight.seq)) :
    acceptAck k s = s := if_neg ((ackMatches_iff k s).not.mpr h)

/-- A matching ack retires the message, and gives the semaphore where the kind is a Ping's (42_cm2dm.md R216, R217). -/
theorem acceptAck_match (h : s.tx.inflight.valid = true ∧ k.id = s.tx.inflight.kind ∧ k.seq = s.tx.inflight.seq) :
    acceptAck k s = if k.id = s.cfg.kindId.ping ∨ k.id = s.cfg.kindId.pingV2 then semGive (clearInflight s) else clearInflight s :=
  if_pos ((ackMatches_iff k s).mpr h)

end

/-- Settles O26: the match decides whether the record retires, the kind whether the semaphore is given. -/
theorem ackinMeaning : Obligations.AckinMeaning := by
  unfold Obligations.AckinMeaning
  intro a k s
  refine ⟨fun ha => if_pos ha, ?_⟩
  rintro rfl
  rw [exec_ackin_transport]
  refine ⟨fun hm => by rw [acceptAck_mismatch hm]; rfl, fun hm => ?_⟩
  rw [acceptAck_match hm]
  refine ⟨?other, ?waiting, ?counting⟩
  case other =>
    intro hping hpingV2
    rw [if_neg (not_or.mpr ⟨hping, hpingV2⟩)]
    rfl
  case waiting =>
    intro hping hw
    rw [if_pos hping, semGive_eq]
    simp only [clearInflight_tmr, hw, if_true]
    rfl
  case counting =>
    intro hping hw
    rw [if_pos hping]
    refine ⟨_, rfl, semGive_sem (clearInflight s) hw, ?_⟩
    rw [semGive_eq]
    simp only [clearInflight_tmr, hw]
    rfl

end Sys2Proof.Machine
end

section
/-! PROOF. One message in flight at a time, with consecutive sequence numbers, over every step but RESET (O28): POLL alone selects, ACKIN alone retires, and nothing else touches the in-flight record or the sequence counter. -/

namespace Sys2Proof.Machine

/-! ## What a transaction does to the in-flight record -/

/-- From `s` to `t` the message in flight stayed or retired, and none was numbered (42_cm2dm.md R215, R216). -/
structure KeepsMessage (s t : State) : Prop where
  seq : t.tx.seq = s.tx.seq := by rfl
  inflight : t.tx.inflight = s.tx.inflight ∨ t.tx.inflight = { s.tx.inflight with valid := false } := by exact .inl rfl

/-- From `s` to `t` a message went in flight where none was, with the next sequence number (42_cm2dm.md R218, R222). -/
structure SendsNext (s t : State) : Prop where
  free : s.tx.inflight.valid = false
  seq : t.tx.seq = s.tx.seq + 1
  valid : t.tx.inflight.valid = true
  number : t.tx.inflight.seq = s.tx.seq + 1

/-- Where a transaction that starts in `s` has a next state, it kept the message in flight, or sent the next where none was. -/
def EndsInSequence (s : State) (o : Host.Outcome State Fault Refusal) : Prop := ∀ t, o = .next t → KeepsMessage s t ∨ SendsNext s t

theorem KeepsMessage.of_tx {s t : State} (h : t.tx = s.tx) : KeepsMessage s t where
  seq := by rw [h]
  inflight := .inl (by rw [h])

theorem KeepsMessage.ite {s t u : State} (p : Prop) [Decidable p] (ht : KeepsMessage s t) (hu : KeepsMessage s u) :
    KeepsMessage s (if p then t else u) :=
  iteInduction (fun _ => ht) (fun _ => hu)

section
variable {s t : State} {o o' : Host.Outcome State Fault Refusal}

theorem EndsInSequence.keeps (h : KeepsMessage s t) : EndsInSequence s (.next t) := by
  rintro _ ⟨⟩
  exact .inl h

/-- A transaction that leaves the transmit half alone. -/
theorem EndsInSequence.same (h : t.tx = s.tx) : EndsInSequence s (.next t) := .keeps (.of_tx h)

/-- Writing the outcome touches no message. -/
theorem EndsInSequence.finish (h : KeepsMessage s t) (a : Agent) (r : Result) : EndsInSequence s (.next (t.finish a r)) :=
  .keeps ⟨h.seq, h.inflight⟩

theorem EndsInSequence.fault (f : Fault) : EndsInSequence s (.fault f) := by
  intro t h
  cases h

theorem EndsInSequence.ite (p : Prop) [Decidable p] (h : EndsInSequence s o) (h' : EndsInSequence s o') :
    EndsInSequence s (if p then o else o') :=
  iteInduction (fun _ => h) (fun _ => h')

theorem EndsInSequence.unless_refused (p : Prop) [Decidable p] {a : Agent} (h : EndsInSequence s o) :
    EndsInSequence s (if p then .next (s.refuse a) else o) :=
  .ite p (.same rfl) h

end

/-! ## The transmit half's own operations -/

/-- SELECT, where nothing is in flight, sends the next message or finds none (42_cm2dm.md R213). -/
theorem selectNext_sends {s : State} (h : s.tx.inflight.valid = false) : selectNext s = s ∨ SendsNext s (selectNext s) := by
  cases hs : scanPending s with
  | none => exact .inl (selectNext_of_none hs)
  | some k =>
    rw [selectNext_of_some hs]
    exact .inr ⟨h, rfl, rfl, rfl⟩

theorem endsInSequence_poll (a : Agent) (s : State) : EndsInSequence s (exec (.poll a) s) := by
  refine .unless_refused _ ?_
  rintro _ ⟨⟩
  cases hv : s.tx.inflight.valid with
  | true => exact .inl (.of_tx (by simp))
  | false =>
    rcases selectNext_sends hv with hs | ⟨hfree, hseq, hvalid, hnumber⟩
    · exact .inl (.of_tx (by simp [hs]))
    · exact .inr ⟨hfree, by simpa using hseq, by simpa using hvalid, by simpa using hnumber⟩

theorem keepsMessage_acceptAck (k : Ack) (s : State) : KeepsMessage s (acceptAck k s) := by
  have hretired : KeepsMessage s (clearInflight s) := { inflight := .inr rfl }
  unfold acceptAck
  refine .ite _ (.ite _ ?_ hretired) {}
  rw [semGive_frame]
  exact ⟨hretired.seq, hretired.inflight⟩

/-! ## The queues and the dispatch of a request -/

theorem endsInSequence_push (a : Agent) (q : Byte) (e : Entry) (s : State) : EndsInSequence s (execPush a q e s) := by
  unfold execPush
  split
  · refine .unless_refused _ ?_
    split
    · exact .same rfl
    · next hp =>
      obtain ⟨_, _, ht⟩ := tryPush_spec _ _ _ _ hp
      rw [ht]
      exact .same rfl
  · exact .same rfl

theorem endsInSequence_pop (a : Agent) (q : Byte) (s : State) : EndsInSequence s (execPop a q s) := by
  unfold execPop
  split
  · next hq =>
    refine .unless_refused _ ?_
    rcases tryPop_found ⟨q.toNat, hq⟩ s with ⟨_, hp⟩ | ⟨_, _, hp⟩ | ⟨e, _, hp⟩ <;> simp only [hp]
    · exact .same rfl
    · exact .fault _
    · exact .same rfl
  · exact .same rfl

theorem respond_tx (c : Fin 4) (rsp : Entry) (s : State) : (respond c rsp s).tx = s.tx := by rw [respond_frame]

theorem debugNoc_tx (d : DbgNoc) (s : State) : (debugNoc d s).2.tx = s.tx := by rw [debugNoc_frame]

/-- A command posts a Ping at most (41_dispatch.md R190). -/
theorem keepsMessage_dispatchRequest (c : Fin 4) (e : Entry) (s : State) : KeepsMessage s (dispatchRequest c e s) := by
  cases ht : vget s.disp.table (requestCode e).toNat none with
  | none =>
    rw [dispatchRequest_none c e s ht]
    exact .of_tx (respond_tx c _ s)
  | some h =>
    rw [dispatchRequest_some c e s h ht]
    cases h with
    | external id => exact .of_tx (respond_tx c _ _)
    | debugNoc => exact .of_tx ((respond_tx c _ _).trans (debugNoc_tx _ _))
    | pingDM =>
      rcases pingDmStart_cases c (s.emit (.handlerCall (requestCode e))) with ⟨_, hp⟩ | ⟨_, hp⟩ <;> dsimp only <;> rw [hp]
      · exact ⟨by rw [respond_tx]; rfl, .inl (by rw [respond_tx]; rfl)⟩
      · exact {}

theorem endsInSequence_dstep (c : Fin 4) (s : State) : EndsInSequence s (dstep c s) := by
  rcases dstep_cases c s with ⟨_, h⟩ | ⟨_, _, h⟩ | ⟨_, _, h⟩ | ⟨e, u, _, hp, h⟩ <;> rw [h]
  · exact .same rfl
  · exact .same rfl
  · exact .fault _
  · obtain ⟨_, _, rfl⟩ := tryPop_got hp
    have hk := keepsMessage_dispatchRequest c e (s.taken (reqQueue c))
    exact .keeps ⟨hk.seq, hk.inflight⟩

/-! ## Every instruction and every step -/

theorem receive_tx (m : Record) (s : State) : (receive m s).tx = s.tx := by rw [receive_frame]

theorem initSteps_tx (i n : Nat) (s : State) : (initSteps i n s).tx = s.tx := by rw [initSteps_frame]

theorem tickTimers_tx (s : State) : (tickTimers s).tx = s.tx := by rw [tickTimers_frame]

theorem computeTables_tx (op : Byte) (s : State) : (computeTables op s).tx = s.tx := by rw [computeTables_frame]

theorem endsInSequence_exec (i : Instr) (s : State) : EndsInSequence s (exec i s) := by
  cases i with
  | poll a => exact endsInSequence_poll a s
  | ackin a k => exact .unless_refused _ (.finish (keepsMessage_acceptAck k s) _ _)
  | push a q e => exact endsInSequence_push a q e s
  | pop a q => exact endsInSequence_pop a q s
  | stat a v =>
    change EndsInSequence s (execStat a v s)
    cases hv : s.view v with
    | none => exact execStat_refused a v s hv ▸ .same rfl
    | some r => exact execStat_view a v r s hv ▸ .same rfl
  | reg a t h => exact .unless_refused _ (.ite _ (.same rfl) (.ite _ (.same rfl) (.same rfl)))
  | dpass a => exact .unless_refused _ (endsInSequence_dstep 0 s)
  | post a k v => exact .unless_refused _ (.ite _ (.same rfl) (.keeps {}))
  | msgin a m => exact .unless_refused _ (.same (receive_tx m s))
  | pingchk a => exact .unless_refused _ (.ite _ (.same rfl) (.same rfl))
  | inittick a => exact .unless_refused _ (.finish (.ite _ (.of_tx (initSteps_tx 0 3 s)) {}) _ _)
  | tick a => exact .unless_refused _ (.finish (.of_tx (tickTimers_tx s)) _ _)
  | setharv a tb g se eb pe => exact .unless_refused _ (.unless_refused _ (.same rfl))
  | compute a => exact .unless_refused _ (.unless_refused _ (.finish (.of_tx (computeTables_tx _ s)) _ _))
  | start a | readmsg a | program a | clear a => exact .unless_refused _ (.same rfl)
  | setVoltage c p | powerSetting c p | triggerReset c p | forceFanSpeed c p | pingDM c p | debugNocTranslation c p =>
    exact .keeps (keepsMessage_dispatchRequest c _ s)
  | nullMsg | resetReq | ping | fanSpeedUpdate | ready | autoResetTimeoutUpdate | heartbeatUpdate | forcedFanSpeedUpdate | pingV2 =>
    exact .same (receive_tx _ s)

theorem endsInSequence_loopTurn (s : State) : EndsInSequence s (loopTurn s) := by
  cases hl : s.loop with
  | idle =>
    simp only [loopTurn, hl]
    exact .same rfl
  | pass c =>
    simp only [loopTurn, hl]
    exact endsInSequence_dstep c s
  | heldCheck =>
    simp only [loopTurn, hl]
    exact .ite _ (.same rfl) (.same rfl)
  | heldDispatch c =>
    simp only [loopTurn, hl]
    exact .ite _ (.same rfl) (.same (respond_tx c _ s))

/-- An end from a state that differs in its inputs only. -/
theorem EndsInSequence.of_inbox {s : State} {ib : List Input} {o : Host.Outcome State Fault Refusal}
    (h : EndsInSequence { s with inbox := ib } o) : EndsInSequence s o :=
  fun t ht => (h t ht).imp (fun k => ⟨k.seq, k.inflight⟩) (fun n => ⟨n.free, n.seq, n.valid, n.number⟩)

/-- Settles O28: each kind of step but RESET keeps the message in flight or sends the next; taking the input touches neither. -/
theorem inflightSequence : Obligations.InflightSequence := by
  unfold Obligations.InflightSequence
  intro s t hn hstep
  have hends : EndsInSequence s (step s) := by
    rcases takeInput_cases s with ⟨_, _, h⟩ | ⟨ib, h, _⟩ | ⟨ib, a, bytes, h, _⟩ | ⟨_, h⟩
    · exact step_of_quiet s _ h ▸ .same rfl
    · exact step_of_loopGoes s _ h ▸ .of_inbox (endsInSequence_loopTurn _)
    · cases hd : decode s.cfg.kindId (.port a) bytes with
      | ok i => exact step_of_port s _ a bytes i h hd ▸ .of_inbox (endsInSequence_exec i _)
      | error err => exact step_of_port_error s _ a bytes err h hd ▸ .same rfl
    · exact absurd h (hn _)
  rcases hends t hstep with hkeeps | hsends
  · exact .inl ⟨hkeeps.seq, hkeeps.inflight⟩
  · exact .inr ⟨hsends.free, hsends.seq, hsends.valid, hsends.number⟩

end Sys2Proof.Machine
end

section
/-! PROOF. The receive half: what the receipt of a record does, by its kind and by whether it is new (O29 to O34, O36), and the ack that retires the sender's message (O37). -/

namespace Sys2Proof.Machine

/-! ## The numbering of the kinds -/

/-- The parameters' part that the receive half uses: the kinds' numbers are apart, and Null's is none of them (00_scope.md R10). -/
theorem kindId_wf_of_params {p : Params} (h : p.wf = true) : p.kindId.wf = true ∧ ∀ k ∈ p.kindId.all, k.toNat < p.kindCount := by
  simp only [Params.wf, Bool.and_eq_true, decide_eq_true_eq] at h
  obtain ⟨⟨⟨⟨⟨⟨⟨⟨⟨⟨_, hids⟩, hlt⟩, _⟩, _⟩, _⟩, _⟩, _⟩, _⟩, _⟩, _⟩ := h
  exact ⟨hids, hlt⟩

theorem ne_zero_of_mem_all {ids : KindIds} {id : Byte} (h : ids.wf = true) (hid : id ∈ ids.all) : id ≠ 0 :=
  fun hz => (List.nodup_cons.mp (of_decide_eq_true h)).1 (hz ▸ hid)

/-- The kinds that do more than to store their data have numbers of their own (42_cm2dm.md R235). -/
theorem effectKinds_apart {ids : KindIds} (h : ids.wf = true) :
    ids.autoResetTimeoutUpdate ≠ ids.resetReq ∧ ids.heartbeatUpdate ≠ ids.resetReq ∧ ids.heartbeatUpdate ≠ ids.autoResetTimeoutUpdate := by
  have hnodup := of_decide_eq_true h
  simp only [KindIds.all, List.nodup_cons, List.mem_cons, not_or] at hnodup
  grind

/-- The named kinds that only store their data (42_cm2dm.md R237, R240). -/
def storageKindIds (ids : KindIds) : List Byte := [ids.ping, ids.fanSpeedUpdate, ids.ready, ids.forcedFanSpeedUpdate, ids.pingV2]

theorem storageKindIds_subset (ids : KindIds) : storageKindIds ids ⊆ ids.all := by
  simp [storageKindIds, KindIds.all]

/-- No kind that only stores its data shares its number with Null or with a kind that does more (42_cm2dm.md R237, R240). -/
theorem storageKind_apart {ids : KindIds} {id : Byte} (h : ids.wf = true) (hid : id ∈ storageKindIds ids) :
    id ∉ [0, ids.resetReq, ids.autoResetTimeoutUpdate, ids.heartbeatUpdate] := by
  have hnodup := of_decide_eq_true h
  simp only [KindIds.all, List.nodup_cons, List.mem_cons, not_or] at hnodup
  simp only [storageKindIds, List.mem_cons] at hid ⊢
  grind

/-! ## A kind's own effect -/

section
variable {ids : KindIds} {id : Byte} (d : Word) (s : State)

theorem ownEffect_resetReq : ownEffect ids ids.resetReq d s = resetPath d s := if_pos rfl

theorem ownEffect_autoResetTimeoutUpdate (h : ids.wf = true) : ownEffect ids ids.autoResetTimeoutUpdate d s = wdSet d s := by
  obtain ⟨hreset, _, _⟩ := effectKinds_apart h
  rw [ownEffect, if_neg hreset, if_pos rfl]

theorem ownEffect_heartbeatUpdate (h : ids.wf = true) : ownEffect ids ids.heartbeatUpdate d s = heartbeat d s := by
  obtain ⟨_, hreset, hauto⟩ := effectKinds_apart h
  rw [ownEffect, if_neg hreset, if_neg hauto, if_pos rfl]

theorem ownEffect_other (h : id ∉ [0, ids.resetReq, ids.autoResetTimeoutUpdate, ids.heartbeatUpdate]) : ownEffect ids id d s = s := by
  simp only [List.mem_cons, List.not_mem_nil, or_false, not_or] at h
  obtain ⟨_, hreset, hauto, hheartbeat⟩ := h
  rw [ownEffect, if_neg hreset, if_neg hauto, if_neg hheartbeat]

/-- No kind's effect moves the sequence number that duplicates are told by (42_cm2dm.md R231, R235). -/
theorem isDuplicate_ownEffect (m : Record) : isDuplicate m (ownEffect ids id d s) = isDuplicate m s := by
  unfold ownEffect
  split
  · rw [resetPath_frame]
    rfl
  · split
    · rw [wdSet_frame]
      rfl
    · split
      · rw [heartbeat_eq]
        rfl
      · rfl

end

/-! ## The receipt of a record -/

section
variable {m : Record} {s : State}

theorem exec_msgin_transport (m : Record) (s : State) : exec (.msgin .transport m) s = .next (receive m s) := rfl

/-- The Null record is no message (42_cm2dm.md R232). -/
theorem receive_null (seq : Byte) (data : Word) (s : State) :
    receive ⟨0, seq, data⟩ s = { s with out := some (.transport, .result .none) } := if_pos rfl

/-- Every other record is acknowledged (42_cm2dm.md R230, R234). -/
theorem receive_out (h0 : m.id ≠ 0) (s : State) : (receive m s).out = some (.transport, .result (.ack ⟨m.id, m.seq⟩)) := by
  rw [receive, if_neg h0]
  rfl

/-- A record that was received once, new or not, is a duplicate from then on (42_cm2dm.md R231, R242). -/
theorem isDuplicate_receive (h0 : m.id ≠ 0) (s : State) : isDuplicate m (receive m s) = true := by
  cases hd : isDuplicate m s with
  | true =>
    rw [receive_duplicate m s h0 hd]
    exact hd
  | false =>
    rcases Nat.lt_or_ge m.id.toNat s.cfg.kindCount with hk | hk
    · rw [receive_new m s h0 hk hd]
      exact (isDuplicate_ownEffect _ _ m).trans (decide_eq_true rfl)
    · rw [receive_unknown m s h0 hk hd]
      exact decide_eq_true rfl

/-- The receipt of a new record of a named kind: the ack, the data storage, the kind's own effect (42_cm2dm.md R230, R235). -/
theorem receive_named {id seq : Byte} {data : Word} (h : s.cfg.wf = true) (hnew : isNew s seq) (hid : id ∈ s.cfg.kindId.all) :
    receive ⟨id, seq, data⟩ s = (ownEffect s.cfg.kindId id data { s with
      rx := { s.rx with lastSeq := seq, lastSeqValid := true, dupLogValid := false, value := vset s.rx.value id.toNat data }
      events := s.events ++ [(s.events.length, .ackOut id seq), (s.events.length + 1, .kindUpdate id data)] }).finish
        .transport (.ack ⟨id, seq⟩) := by
  obtain ⟨hids, hlt⟩ := kindId_wf_of_params h
  exact receive_new ⟨id, seq, data⟩ s (ne_zero_of_mem_all hids hid) (hlt id hid) (isDuplicate_false _ s hnew)

/-- The receipt of a new record of a kind that only stores its data (42_cm2dm.md R237, R240). -/
theorem receive_stores {id seq : Byte} {data : Word} (hnew : isNew s seq)
    (hid : id ∉ [0, s.cfg.kindId.resetReq, s.cfg.kindId.autoResetTimeoutUpdate, s.cfg.kindId.heartbeatUpdate])
    (hk : id.toNat < s.cfg.kindCount) :
    receive ⟨id, seq, data⟩ s = { s with
      rx := { s.rx with lastSeqValid := true, lastSeq := seq, dupLogValid := false, value := vset s.rx.value id.toNat data }
      events := s.events ++ [(s.events.length, .ackOut id seq), (s.events.length + 1, .kindUpdate id data)]
      out := some (.transport, .result (.ack ⟨id, seq⟩)) } := by
  have h0 : id ≠ 0 := fun hz => hid (hz ▸ List.mem_cons_self)
  rw [receive_new ⟨id, seq, data⟩ s h0 hk (isDuplicate_false _ s hnew), ownEffect_other _ _ hid]
  rfl

end

/-- Settles O29: the Null record ends at the first test, an unknown kind before the data storage. -/
theorem kindsWithoutEffect : Obligations.KindsWithoutEffect := by
  unfold Obligations.KindsWithoutEffect
  intro seq data s
  refine ⟨congrArg Host.Outcome.next (receive_null seq data s), congrArg Host.Outcome.next (receive_null seq data s), ?unknown, fun a m ha => if_pos ha⟩
  case unknown =>
    intro id h0 hk hnew
    rw [exec_msgin_transport, receive_unknown ⟨id, seq, data⟩ s h0 hk (isDuplicate_false _ s hnew)]

/-- Settles O30: the two cases of the duplicate log. -/
theorem duplicateInbound : Obligations.DuplicateInbound := by
  unfold Obligations.DuplicateInbound
  intro m s h0 hv hs
  rw [exec_msgin_transport, receive_duplicate m s h0 ((isDuplicate_iff m s).mpr ⟨hv, hs⟩)]
  refine ⟨?logged, ?fresh⟩
  case logged =>
    rintro ⟨hlogged, hseq⟩
    have hrx : { s.rx with dupLogValid := true, dupLogSeq := m.seq } = s.rx := by rw [← hlogged, ← hseq]
    rw [if_pos ⟨hlogged, hseq⟩, hrx]
  case fresh =>
    intro h
    rw [if_neg (by rintro ⟨hlogged, hseq⟩; simp [hlogged, hseq] at h)]

/-- Settles O31: the five named storage kinds are none of those that do more, and so is every further kind by its premise. -/
theorem storageKinds : Obligations.StorageKinds := by
  unfold Obligations.StorageKinds
  intro s id seq data t hwf hnew ht
  obtain ⟨hids, hlt⟩ := kindId_wf_of_params hwf
  have hstores : id ∉ [0, s.cfg.kindId.resetReq, s.cfg.kindId.autoResetTimeoutUpdate, s.cfg.kindId.heartbeatUpdate] →
      id.toNat < s.cfg.kindCount → exec (.msgin .transport ⟨id, seq, data⟩) s = .next t :=
    fun hid hk => congrArg _ ((receive_stores hnew hid hk).trans ht.symm)
  have hnamed : id ∈ storageKindIds s.cfg.kindId → exec (.msgin .transport ⟨id, seq, data⟩) s = .next t :=
    fun hid => hstores (storageKind_apart hids hid) (hlt id (storageKindIds_subset _ hid))
  refine ⟨?_, ?_, ?_, ?_, ?_, hstores⟩ <;> rintro rfl <;> exact hnamed (by simp [storageKindIds])

/-- Settles O32: the own effect of ResetReq is RESET_PATH. -/
theorem resetReqMeaning : Obligations.ResetReqMeaning := by
  unfold Obligations.ResetReqMeaning
  intro seq data s hwf hnew
  change Host.Outcome.next (receive ⟨s.cfg.kindId.resetReq, seq, data⟩ s) = _
  rw [receive_named hwf hnew (by simp [KindIds.all]), ownEffect_resetReq, resetPath_eq]
  rfl

/-- Settles O33: the own effect of AutoResetTimeoutUpdate is WD_SET. -/
theorem autoResetTimeoutMeaning : Obligations.AutoResetTimeoutMeaning := by
  unfold Obligations.AutoResetTimeoutMeaning
  intro seq data s hwf hnew
  change Host.Outcome.next (receive ⟨s.cfg.kindId.autoResetTimeoutUpdate, seq, data⟩ s) = _
  rw [receive_named hwf hnew (by simp [KindIds.all]), ownEffect_autoResetTimeoutUpdate _ _ (kindId_wf_of_params hwf).1, wdSet_eq]
  rfl

/-- Settles O34: the own effect of HeartbeatUpdate is HB. -/
theorem heartbeatMeaning : Obligations.HeartbeatMeaning := by
  unfold Obligations.HeartbeatMeaning
  intro seq data s hwf hnew
  change Host.Outcome.next (receive ⟨s.cfg.kindId.heartbeatUpdate, seq, data⟩ s) = _
  rw [receive_named hwf hnew (by simp [KindIds.all]), ownEffect_heartbeatUpdate _ _ (kindId_wf_of_params hwf).1, heartbeat_eq]
  rfl

/-- Settles O36: what was received once is received as a duplicate. -/
theorem deliveredTwice : Obligations.DeliveredTwice := by
  unfold Obligations.DeliveredTwice
  intro m s t h0 ht
  obtain rfl := Host.Outcome.next.inj ((exec_msgin_transport m s).symm.trans ht)
  exact ⟨receive_out h0 s, _, exec_msgin_transport m _, receive_duplicate m _ h0 (isDuplicate_receive h0 s)⟩

/-! ## The handshake -/

/-- A matching ack retires the message, whatever its kind (42_cm2dm.md R216). -/
theorem acceptAck_retires {k : Ack} {s : State}
    (h : s.tx.inflight.valid = true ∧ k.id = s.tx.inflight.kind ∧ k.seq = s.tx.inflight.seq) :
    (acceptAck k s).tx.inflight.valid = false := by
  rw [acceptAck_match h]
  split
  · rw [semGive_frame]
    rfl
  · rfl

/-- Settles O37: the ack that the receiver returns carries the kind and the sequence number of the record that the sender shows. -/
theorem handshakeRetires : Obligations.HandshakeRetires := by
  unfold Obligations.HandshakeRetires
  intro sA sB hv hk
  refine ⟨⟨sA.tx.inflight.kind, sA.tx.inflight.seq, sA.tx.inflight.data⟩, _, _, _, _, exec_readmsg_transport sA, ?shown,
    exec_msgin_transport _ sB, receive_out hk sB, exec_ackin_transport _ _, acceptAck_retires ⟨hv, rfl, rfl⟩⟩
  case shown => rw [record_of_valid hv]; rfl

end Sys2Proof.Machine
end

section
/-! PROOF. TICK in closed form (O38) and from it the watchdog's run to the reset output (O39); the answers of PINGCHK (O41) and of INITTICK (O43). -/

namespace Sys2Proof.Machine

/-! ## The three timers of a TICK -/

/-- RST_TICK where a reset is pending, as one record; `ends` says that this TICK is its last (42_cm2dm.md R252). -/
theorem rstStage_eq (s : State) (ends : Bool) (he : ends = (s.tmr.rstPending && decide (s.tmr.rstRemaining = 1))) :
    (if s.tmr.rstPending then rstTick s else s) = { s with
      tmr := { s.tmr with
        rstPending := s.tmr.rstPending && !ends
        rstRemaining := if s.tmr.rstPending then s.tmr.rstRemaining - 1 else s.tmr.rstRemaining
        rstOut := s.tmr.rstOut || ends }
      events := s.events ++ if ends then [(s.events.length, .resetOut s.tmr.rstArg)] else [] } := by
  cases hp : s.tmr.rstPending with
  | false =>
    obtain rfl : ends = false := by rw [he, hp, Bool.false_and]
    simp only [Bool.false_eq_true, if_false, Bool.false_and, Bool.or_false, List.append_nil]
    rw [← hp]
  | true =>
    have hlast : s.tmr.rstRemaining = 1 ↔ ends = true := by rw [he, hp, Bool.true_and, decide_eq_true_eq]
    simp only [rstTick_eq, hlast, hp]
    cases ends <;> simp

/-- WD_TICK where the watchdog is armed, as one record; `fires` says that its expiry starts the reset path (42_cm2dm.md R251). -/
theorem wdStage_eq (s : State) (armed free ends fires : Bool) (ha : s.tmr.wdArmed = armed)
    (he : ends = (armed && decide (s.tmr.wdRemaining = 1))) (hf : fires = (ends && free)) :
    (if armed then wdTick free s else s) = { s with
      tmr := { s.tmr with
        wdArmed := armed && !ends
        wdRemaining := if armed then s.tmr.wdRemaining - 1 else s.tmr.wdRemaining
        rstPending := s.tmr.rstPending || fires
        rstRemaining := if fires then s.cfg.resetDelayTicks else s.tmr.rstRemaining
        rstArg := if fires then s.cfg.wdResetArg else s.tmr.rstArg } } := by
  cases armed with
  | false =>
    obtain rfl : ends = false := by rw [he, Bool.false_and]
    obtain rfl : fires = false := hf
    simp only [Bool.false_eq_true, if_false, Bool.false_and, Bool.or_false]
    rw [← ha]
  | true =>
    have hlast : s.tmr.wdRemaining = 1 ↔ ends = true := by rw [he, Bool.true_and, decide_eq_true_eq]
    have hfires : ends = true ∧ free = true ↔ fires = true := by rw [hf, Bool.and_eq_true]
    simp only [wdTick_eq, hlast, hfires, ha]
    cases ends <;> cases fires <;> simp

/-- PING_TICK where a check waits, as one record; `ends` says that it times out (42_cm2dm.md R253). -/
theorem pingStage_eq (s : State) (waits ends : Bool) (hw : s.tmr.pingWait = waits)
    (he : ends = (waits && decide (s.tmr.pingRemaining = 1))) :
    (if waits then pingTick s else s) = { s with
      tmr := { s.tmr with
        pingWait := waits && !ends
        pingRemaining := if waits then s.tmr.pingRemaining - 1 else s.tmr.pingRemaining
        pingResult := if ends then .timeout else s.tmr.pingResult
        pingHasResult := s.tmr.pingHasResult || ends } } := by
  cases waits with
  | false =>
    obtain rfl : ends = false := by rw [he, Bool.false_and]
    simp only [Bool.false_eq_true, if_false, Bool.false_and, Bool.or_false]
    rw [← hw]
  | true =>
    have hlast : s.tmr.pingRemaining = 1 ↔ ends = true := by rw [he, Bool.true_and, decide_eq_true_eq]
    simp only [pingTick_eq, hlast, hw]
    cases ends <;> simp

/-- Settles O38: the three timers one after the other; none of them reads what another one writes, but for the reset path, whose test is made on the state at the start. -/
theorem tickMeaning : Obligations.TickMeaning := by
  unfold Obligations.TickMeaning
  intro a s
  refine ⟨fun ha => if_pos ha, ?_⟩
  rintro rstEnds wdEnds pingEnds fires hrst hwd hping hfires rfl
  have hfree : fires = (wdEnds && resetIdle s) := by rw [hfires, resetIdle, Bool.and_assoc]
  have hbusy : s.tmr.rstPending = true → fires = false := fun hp => by simp [hfires, hp]
  rw [exec_tick_timebase, tickTimers, rstStage_eq s rstEnds hrst]
  dsimp only
  rw [wdStage_eq _ s.tmr.wdArmed (resetIdle s) wdEnds fires ?armed ?wdEnds hfree, pingStage_eq _ s.tmr.pingWait pingEnds ?waits ?pingEnds]
  case armed => rfl
  case wdEnds => exact hwd
  case waits => rfl
  case pingEnds => exact hping
  have hremaining : (if fires then s.cfg.resetDelayTicks else if s.tmr.rstPending then s.tmr.rstRemaining - 1 else s.tmr.rstRemaining)
      = if s.tmr.rstPending then s.tmr.rstRemaining - 1 else if fires then s.cfg.resetDelayTicks else s.tmr.rstRemaining := by
    cases hp : s.tmr.rstPending with
    | true => simp [hbusy hp]
    | false => rfl
  simp only [State.finish, hremaining]

/-! ## The watchdog's run -/

/-- A TICK of TIMEBASE as a function: it always has a next state. -/
def tick (s : State) : State := (tickTimers s).finish .timebase .ok

theorem afterTicks_eq_iterate (n : Nat) (s : State) : afterTicks n s = some (tick^[n] s) := by
  induction n generalizing s with
  | zero => rfl
  | succ n ih => exact ih (tick s)

theorem tick_cfg (s : State) : (tick s).cfg = s.cfg := by
  rw [tick, State.finish_cfg, tickTimers_frame]

theorem iterate_tick_cfg (n : Nat) (s : State) : (tick^[n] s).cfg = s.cfg := by
  induction n with
  | zero => rfl
  | succ n ih => rw [Function.iterate_succ_apply', tick_cfg, ih]

/-- The watchdog is armed with `n` TICKs left, and no reset is on its way (42_cm2dm.md R251). -/
structure WatchdogRuns (n : Nat) (s : State) : Prop where
  armed : s.tmr.wdArmed = true
  left : s.tmr.wdRemaining.toNat = n
  noReset : s.tmr.rstPending = false
  noOutput : s.tmr.rstOut = false

/-- The watchdog has expired, and the reset output is `n` TICKs away (42_cm2dm.md R252). -/
structure ResetRuns (n : Nat) (arg : Word) (s : State) : Prop where
  disarmed : s.tmr.wdArmed = false
  pending : s.tmr.rstPending = true
  left : s.tmr.rstRemaining.toNat = n
  arg : s.tmr.rstArg = arg
  noOutput : s.tmr.rstOut = false

/-- A timer that is off does not end at this TICK. -/
theorem timer_off {b : Bool} (x : Word) (h : b = false) : false = (b && decide (x = 1)) := by rw [h, Bool.false_and]

/-- Nor does one with more than one TICK left. -/
theorem timer_goes_on {x : Word} {n : Nat} (b : Bool) (h : x.toNat = n) (hn : 2 ≤ n) : false = (b && decide (x = 1)) := by
  have hne : x ≠ 1 := fun hx => by
    rw [hx] at h
    exact absurd (hn.trans_eq h.symm) (by decide)
  rw [decide_eq_false hne, Bool.and_false]

/-- A running timer with one TICK left does. -/
theorem timer_ends {b : Bool} {x : Word} (hb : b = true) (h : x.toNat = 1) : true = (b && decide (x = 1)) := by
  rw [hb, decide_eq_true (BitVec.eq_of_toNat_eq h), Bool.true_and]

section
variable {n : Nat} {arg : Word} {s : State}

/-- A TICK before the last (42_cm2dm.md R251). -/
theorem WatchdogRuns.tick (h : WatchdogRuns n s) (hn : 2 ≤ n) : WatchdogRuns (n - 1) (tick s) := by
  obtain ⟨harmed, hleft, hpending, hout⟩ := h
  have ht : Machine.tick s = _ := Host.Outcome.next.inj ((tickMeaning .timebase s).2 false false _ _
    (timer_off _ hpending) (timer_goes_on _ hleft hn) rfl rfl rfl)
  have hdown : (s.tmr.wdRemaining - 1).toNat = n - 1 := by rw [counter_down _ (by omega), hleft]
  rw [ht]
  exact ⟨by simp [harmed], by simpa [harmed] using hdown, by simp [hpending], by simp [hout]⟩

/-- The last TICK starts the reset path (42_cm2dm.md R236, R251). -/
theorem WatchdogRuns.expires (h : WatchdogRuns 1 s) : ResetRuns s.cfg.resetDelayTicks.toNat s.cfg.wdResetArg (Machine.tick s) := by
  obtain ⟨harmed, hleft, hpending, hout⟩ := h
  have ht : Machine.tick s = _ := Host.Outcome.next.inj ((tickMeaning .timebase s).2 false true _ true
    (timer_off _ hpending) (timer_ends harmed hleft) rfl (by rw [hpending, hout]; rfl) rfl)
  rw [ht]
  exact ⟨by simp, by simp, by simp [hpending], rfl, by simp [hout]⟩

/-- A TICK of the reset delay before its last (42_cm2dm.md R252). -/
theorem ResetRuns.tick (h : ResetRuns n arg s) (hn : 2 ≤ n) : ResetRuns (n - 1) arg (Machine.tick s) := by
  obtain ⟨hdisarmed, hpending, hleft, harg, hout⟩ := h
  have ht : Machine.tick s = _ := Host.Outcome.next.inj ((tickMeaning .timebase s).2 false false _ _
    (timer_goes_on _ hleft hn) (timer_off _ hdisarmed) rfl rfl rfl)
  have hdown : (s.tmr.rstRemaining - 1).toNat = n - 1 := by rw [counter_down _ (by omega), hleft]
  rw [ht]
  exact ⟨by simp [hdisarmed], by simp [hpending], by simpa [hpending] using hdown, by simpa using harg, by simp [hout]⟩

/-- The last TICK of the reset delay drives the reset output (42_cm2dm.md R252). -/
theorem ResetRuns.ends (h : ResetRuns 1 arg s) :
    (Machine.tick s).tmr.rstOut = true ∧ (Machine.tick s).tmr.rstPending = false
      ∧ (s.events.length, .resetOut arg) ∈ (Machine.tick s).events := by
  obtain ⟨hdisarmed, hpending, hleft, harg, _⟩ := h
  have ht : Machine.tick s = _ := Host.Outcome.next.inj ((tickMeaning .timebase s).2 true false _ _
    (timer_ends hpending hleft) (timer_off _ hdisarmed) rfl rfl rfl)
  rw [ht]
  exact ⟨by simp, by simp, by simp [harg]⟩

theorem WatchdogRuns.iterate {j : Nat} (h : WatchdogRuns n s) (hj : j < n) : WatchdogRuns (n - j) (Machine.tick^[j] s) := by
  induction j with
  | zero => exact h
  | succ j ih =>
    rw [Function.iterate_succ_apply']
    exact (ih (by omega)).tick (by omega)

theorem ResetRuns.iterate {j : Nat} (h : ResetRuns n arg s) (hj : j < n) : ResetRuns (n - j) arg (Machine.tick^[j] s) := by
  induction j with
  | zero => exact h
  | succ j ih =>
    rw [Function.iterate_succ_apply']
    exact (ih (by omega)).tick (by omega)

/-- An armed watchdog expires at the last of its TICKs (42_cm2dm.md R251). -/
theorem WatchdogRuns.iterate_all (h : WatchdogRuns (n + 1) s) :
    ResetRuns s.cfg.resetDelayTicks.toNat s.cfg.wdResetArg (Machine.tick^[n + 1] s) := by
  have hlast : WatchdogRuns 1 (Machine.tick^[n] s) := by simpa using h.iterate (Nat.lt_succ_self n)
  rw [Function.iterate_succ_apply', ← iterate_tick_cfg n s]
  exact hlast.expires

/-- A pending reset reaches the output at the last of its TICKs (42_cm2dm.md R252). -/
theorem ResetRuns.iterate_all (h : ResetRuns (n + 1) arg s) :
    (Machine.tick^[n + 1] s).tmr.rstOut = true ∧ (Machine.tick^[n + 1] s).tmr.rstPending = false
      ∧ ∃ k, (k, .resetOut arg) ∈ (Machine.tick^[n + 1] s).events := by
  have hlast : ResetRuns 1 arg (Machine.tick^[n] s) := by simpa using h.iterate (Nat.lt_succ_self n)
  rw [Function.iterate_succ_apply']
  obtain ⟨hout, hpending, hevent⟩ := hlast.ends
  exact ⟨hout, hpending, _, hevent⟩

end

/-- Settles O39: the watchdog's TICKs up to its last, then those of the reset delay up to its last. -/
theorem watchdogExpires : Obligations.WatchdogExpires := by
  unfold Obligations.WatchdogExpires
  intro s n d harmed hn hpos hd hdpos hpending hout
  have hrun : WatchdogRuns n s := ⟨harmed, hn, hpending, hout⟩
  obtain ⟨n, rfl⟩ := Nat.exists_eq_add_of_le' hpos
  obtain ⟨d, rfl⟩ := Nat.exists_eq_add_of_le' hdpos
  have hexpired := hrun.iterate_all
  refine ⟨fun j hj => ?_, ⟨_, afterTicks_eq_iterate _ s, hexpired.disarmed, hexpired.pending, BitVec.eq_of_toNat_eq hexpired.left,
    hexpired.arg, hexpired.noOutput⟩, ?_⟩
  · have hj' := hrun.iterate hj
    exact ⟨_, afterTicks_eq_iterate j s, hj'.armed, hj'.left, hj'.noReset⟩
  · rw [hd] at hexpired
    obtain ⟨hout', hpending', k, hevent⟩ := hexpired.iterate_all
    rw [← Function.iterate_add_apply, Nat.add_comm] at hout' hpending' hevent
    exact ⟨_, k, afterTicks_eq_iterate _ s, hout', hpending', hevent⟩

/-! ## PINGCHK and INITTICK -/

/-- Settles O41: the semaphore's test, and what LOOP does once the hold is lifted. -/
theorem pingchkMeaning : Obligations.PingchkMeaning := by
  unfold Obligations.PingchkMeaning
  refine ⟨fun a s => ⟨fun ha => if_pos ha, ?alive, ?holds⟩, ?resumes⟩
  case alive =>
    rintro rfl hsem
    have hpos : 0 < s.tmr.sem.toNat := Nat.pos_of_ne_zero (fun h => hsem (BitVec.eq_of_toNat_eq h))
    exact (exec_pingchk_loop s).trans (if_pos hpos)
  case holds =>
    rintro rfl hsem
    exact (exec_pingchk_loop s).trans (if_neg (by simp [hsem]))
  case resumes =>
    intro s u ht hl
    have hw : u.tmr.pingWait = false := by simpa [held, hl] using held_of_loopGoes ht
    refine ⟨hw, (step_of_loopGoes s u ht).trans ?_⟩
    simp only [loopTurn, hl, hw, Bool.false_eq_true, if_false]
    cases u.tmr.pingResult <;> rfl

/-- INITTICK of LOOP by the gate (42_cm2dm.md R265). -/
theorem exec_inittick_loop (s : State) : exec (.inittick .loop) s
    = .next ((if s.gate.needsInit then initSteps 0 3 s else s).finish .loop .ok) := rfl

/-- `s` after init step `i` answered `ok` and left the external state at `g`: the step is reported (42_cm2dm.md R265). -/
def afterInitStep (i : Nat) (ok : Bool) (g : Nat) (s : State) : State := { s with
  ext := g
  events := s.events ++ [(s.events.length, .initStep i ok)] }

/-- One init step, and the next one where it succeeded (42_cm2dm.md R265). -/
theorem initSteps_succ {i n : Nat} {s : State} {ok : Bool} {g : Nat} (h : (ok, g) = Config.initStep i s.ext) :
    initSteps i (n + 1) s = if ok then initSteps (i + 1) n (afterInitStep i ok g s) else afterInitStep i ok g s := by
  rw [initSteps, ← h]
  rfl

/-- The gate goes down once no step is left. -/
theorem initSteps_zero (i : Nat) (s : State) : initSteps i 0 s = { s with gate := ⟨false⟩ } := rfl

/-- Settles O43: the three steps one by one, as far as they succeed. -/
theorem inittickMeaning : Obligations.InittickMeaning := by
  unfold Obligations.InittickMeaning
  intro a s
  refine ⟨fun ha => if_pos ha, ?down, ?up⟩
  case down =>
    rintro rfl hg
    rw [exec_inittick_loop, if_neg (by simp [hg])]
    rfl
  case up =>
    rintro ok0 ok1 ok2 g0 g1 g2 h0 h1 h2 rfl hg
    have hrun1 := initSteps_succ (n := 1) (s := afterInitStep 0 true g0 s) h1
    have hrun2 := initSteps_succ (n := 0) (s := afterInitStep 1 true g1 (afterInitStep 0 true g0 s)) h2
    rw [exec_inittick_loop, if_pos hg, initSteps_succ h0]
    refine ⟨?fails0, ?fails1, ?reaches2⟩
    case fails0 =>
      rintro rfl
      rfl
    case fails1 =>
      rintro rfl rfl
      rw [if_pos rfl, hrun1]
      simp [State.finish, afterInitStep]
    case reaches2 =>
      rintro rfl rfl
      have hup : s.gate = ⟨true⟩ := by rw [← hg]
      rw [if_pos rfl, hrun1, if_pos rfl, hrun2, initSteps_zero]
      cases ok2 <;> simp [State.finish, afterInitStep, hup]

end Sys2Proof.Machine
end

section
/-! PROOF. The NOC engine's simple operations: SETHARV (O44), COMPUTE where no class is violated (O45), CLEAR (O48); and RESET, whose tables are those of CLEAR (O57). -/

namespace Sys2Proof.Machine

/-! ## SETHARV -/

/-- Settles O44: the agent's test, the registers' test, the write. -/
theorem setharvMeaning : Obligations.SetharvMeaning := by
  unfold Obligations.SetharvMeaning
  intro a tb g se eb pe s
  refine ⟨fun ha => if_pos ha, ?held, ?loads⟩
  case held =>
    rintro rfl hv
    exact if_pos hv
  case loads =>
    rintro rfl hv
    have hempty : ¬s.noc.harvValid = true := by simp [hv]
    exact if_neg hempty

/-! ## PRECOND and COMPUTE -/

theorem tensix_mem_violatedClasses (p : Params) (h : Harvest) :
    .tensix ∈ violatedClasses p h ↔ h.tensixBad.extractLsb' 0 14 = 0x3FFF := by
  simp [violatedClasses]

theorem gddr_mem_violatedClasses (p : Params) (h : Harvest) :
    .gddr ∈ violatedClasses p h ↔ h.gddrBad ≠ p.gddrNone ∧ p.geo.nGddr ≤ h.gddrBad.toNat := by
  simp [violatedClasses]

/-- COMPUTE's precondition (43_noc.md R287). -/
theorem violatedClasses_eq_nil {p : Params} {h : Harvest} (htensix : h.tensixBad.extractLsb' 0 14 ≠ 0x3FFF)
    (hgddr : h.gddrBad = p.gddrNone ∨ h.gddrBad.toNat < p.geo.nGddr) : violatedClasses p h = [] := by
  rw [List.eq_nil_iff_forall_not_mem]
  rintro (_ | _)
  · exact fun hm => htensix ((tensix_mem_violatedClasses p h).mp hm)
  · rw [gddr_mem_violatedClasses]
    rintro ⟨hnone, hge⟩
    exact hgddr.elim hnone (Nat.not_lt.mpr hge)

/-- Where no class is violated COMPUTE writes the two tables only (43_noc.md R275, R296). -/
theorem computeTables_of_nil {s : State} (h : violatedClasses s.cfg s.noc.harv = []) (op : Byte) :
    computeTables op s = { s with noc := { s.noc with
      ring0 := computedTable s.cfg.geo s.cfg.fixedNodes s.noc.harv
      ring1 := mirror (computedTable s.cfg.geo s.cfg.fixedNodes s.noc.harv) } } := by
  have hflag : (s.noc.precondViolated || !List.isEmpty ([] : List TileClass)) = s.noc.precondViolated := Bool.or_false _
  unfold computeTables
  simp only [h, hflag]
  rfl

/-- Settles O45: with no class violated there is no draw and no note. -/
theorem computeMeaning : Obligations.ComputeMeaning := by
  unfold Obligations.ComputeMeaning
  intro a s
  refine ⟨fun ha => if_pos ha, ?empty, ?computes⟩
  case empty =>
    rintro rfl hv
    exact if_pos hv
  case computes =>
    rintro rfl hv htensix hgddr
    rw [exec_compute_loop hv, computeTables_of_nil (violatedClasses_eq_nil htensix hgddr)]
    rfl

/-! ## CLEAR -/

/-- The CLEAR state of ring 0 translates nothing (43_noc.md R276, R290). -/
theorem clearedTable_axes (geo : Geometry) (i : Nat) (h : i < 32) : (clearedTable geo).xAt i = i ∧ (clearedTable geo).yAt i = i :=
  ⟨identityTable_xAt i h, identityTable_yAt i h⟩

theorem clearedTable_logicalAt (geo : Geometry) (x y : Nat) (hx : x < 17) (hy : y < 12) :
    (clearedTable geo).logicalAt x y = packCoord x y := identityTable_logicalAt x y hx hy

/-- Settles O48: ring 0 is the CLEAR state, whose tables are the identity. -/
theorem clearMeaning : Obligations.ClearMeaning := by
  unfold Obligations.ClearMeaning
  intro a s
  refine ⟨fun ha => if_pos ha, ?clears⟩
  rintro rfl
  exact ⟨_, exec_clear_loop s, rfl, rfl, clearedTable_axes _, clearedTable_logicalAt _, rfl, rfl⟩

/-! ## RESET -/

theorem blockReset_occ (s : State) (q : Fin 8) : (blockReset s).occ q = 0 := powerOn_occ s.cfg q

/-- No kind is pending after a RESET (70_reset_and_hazards.md R371). -/
theorem blockReset_pending (s : State) (k : Nat) : vget (blockReset s).tx.pending k false = false :=
  (vget_replicate 256 k false false).trans (ite_self false)

/-- No handler is registered after a RESET (70_reset_and_hazards.md R371). -/
theorem blockReset_handler (s : State) (k : Nat) : vget (blockReset s).disp.table k none = none :=
  (vget_replicate 256 k none none).trans (ite_self none)

/-- Settles O57: the block is as after power-on with the same parameters, but for the events and what is not the block's own. -/
theorem resetMeaning : Obligations.ResetMeaning := by
  unfold Obligations.ResetMeaning
  intro s u hu
  refine ⟨blockReset u, step_of_reset s u hu, fun q => ⟨powerOn_rmq u.cfg q, blockReset_occ u q⟩, fun k => blockReset_handler u k.toNat, rfl,
    blockReset_pending u, ?fields⟩
  case fields =>
    refine ⟨rfl, rfl, rfl, rfl, rfl, rfl, rfl, rfl, rfl, rfl, rfl, rfl, rfl, rfl, rfl, rfl, rfl, rfl, rfl, rfl, rfl, ?_⟩
    exact ⟨clearedTable_axes _, clearedTable_logicalAt _, rfl, rfl, rfl, rfl, rfl, rfl, rfl, rfl⟩

end Sys2Proof.Machine
end

section
/-! PROOF. The broadcast masks bit by bit (O52), and the mirror: each reading of ring 1's table as a reading of ring 0's (O51). -/

namespace Sys2Proof.Machine

/-! ## Bits -/

theorem bit_getLsbD (i x : Nat) : (bit i).getLsbD x = true ↔ x < 32 ∧ x = i := by
  rw [bit, BitVec.getLsbD_shiftLeft, BitVec.getLsbD_one]
  simp
  omega

/-- A loop that sets the bit `pos i` for each `i` that `p` selects. -/
theorem foldl_setBits_getLsbD (p : Nat → Bool) (pos : Nat → Nat) (l : List Nat) (m : Word) (x : Nat) :
    (l.foldl (fun m i => if p i then m ||| bit (pos i) else m) m).getLsbD x = true
      ↔ m.getLsbD x = true ∨ x < 32 ∧ ∃ i ∈ l, p i = true ∧ x = pos i := by
  induction l generalizing m with
  | nil => simp
  | cons i l ih =>
    rw [List.foldl_cons, ih]
    cases hp : p i with
    | false => simp [hp]
    | true =>
      rw [if_pos rfl, BitVec.getLsbD_or, Bool.or_eq_true, bit_getLsbD]
      simp only [List.exists_mem_cons_iff, hp, true_and]
      tauto

/-- A mask made by setting bits holds the bits that were set. -/
theorem foldl_setBits_zero_getLsbD (p : Nat → Bool) (pos : Nat → Nat) (l : List Nat) (x : Nat) :
    (l.foldl (fun m i => if p i then m ||| bit (pos i) else m) (0 : Word)).getLsbD x = true ↔ x < 32 ∧ ∃ i ∈ l, p i = true ∧ x = pos i := by
  have hzero : ¬(0 : Word).getLsbD x = true := by simp
  rw [foldl_setBits_getLsbD, or_iff_right hzero]

/-! ## The masks -/

/-- The columns that are excluded whatever is harvested (43_noc.md R285). -/
theorem blindColMask_getLsbD (geo : Geometry) (x : Nat) :
    (blindColMask geo).getLsbD x = true ↔ x < 32 ∧ (x = geo.gddrColW ∨ x = geo.gddrColE ∨ x = geo.mgmtCol) := by
  simp only [blindColMask, BitVec.getLsbD_or, Bool.or_eq_true, bit_getLsbD]
  tauto

theorem blindRowMask_getLsbD (geo : Geometry) (y : Nat) :
    (blindRowMask geo).getLsbD y = true ↔ y < 32 ∧ (y = geo.ethRow ∨ y = geo.pcieRow) := by
  simp only [blindRowMask, BitVec.getLsbD_or, Bool.or_eq_true, bit_getLsbD]
  tauto

/-- The harvested compute columns (43_noc.md R285). -/
theorem tensixMask_getLsbD (bad : Half) (x : Nat) :
    (tensixMask bad).getLsbD x = true ↔ ∃ i, i < 14 ∧ bad.getLsbD i = true ∧ tensixCols[i]? = some x := by
  rw [tensixMask, foldl_setBits_zero_getLsbD]
  simp only [List.mem_range]
  have column : ∀ i, i < 14 → (tensixCols[i]? = some x ↔ x < 32 ∧ x = tensixCols.getD i 0) := by
    intro i hi
    have hlt : ∀ j, j < 14 → tensixCols.getD j 0 < 32 := by decide
    have hsome : tensixCols[i]? = some (tensixCols.getD i 0) := by
      rw [List.getD_eq_getElem tensixCols 0 hi, List.getElem?_eq_getElem hi]
    rw [hsome, Option.some_inj]
    exact ⟨fun h => ⟨h ▸ hlt i hi, h.symm⟩, fun h => h.2.symm⟩
  constructor
  · rintro ⟨hx, i, hi, hbad, hcol⟩
    exact ⟨i, hi, hbad, (column i hi).mpr ⟨hx, hcol⟩⟩
  · rintro ⟨i, hi, hbad, hcol⟩
    obtain ⟨hx, hcol⟩ := (column i hi).mp hcol
    exact ⟨hx, i, hi, hbad, hcol⟩

theorem computedTable_colMask (geo : Geometry) (nodes : List FixedNode) (h : Harvest) :
    (computedTable geo nodes h).colMask = blindColMask geo ||| tensixMask h.tensixBad := rfl

theorem computedTable_rowMask (geo : Geometry) (nodes : List FixedNode) (h : Harvest) :
    (computedTable geo nodes h).rowMask = blindRowMask geo := rfl

/-! ## The constraints on the geometry -/

/-- `Geometry.wf` by its parts (43_noc.md R271). -/
structure GeometryOk (geo : Geometry) : Prop where
  channels : geo.nGddr = 2 * geo.gddrPerCol
  dramFits : geo.gddrPerCol * geo.gddrRowsPer ≤ 12
  lanes : geo.ethX.length ≤ 16
  rowsAscend : geo.tensixRows.Pairwise (· < ·)
  preX_lt : ∀ x ∈ geo.preXs, x < 32
  preY_lt : ∀ y ∈ geo.preYs, y < 32
  physX_lt : ∀ x ∈ geo.physXs, x < 17
  physY_lt : ∀ y ∈ geo.physYs, y < 12
  preX_nodup : geo.preXs.Nodup
  preY_nodup : geo.preYs.Nodup

theorem geometryOk_of_wf {geo : Geometry} (h : geo.wf = true) : GeometryOk geo := by
  simp only [Geometry.wf, Bool.and_eq_true, decide_eq_true_eq] at h
  obtain ⟨⟨⟨⟨⟨⟨⟨⟨⟨hchannels, hfits⟩, hlanes⟩, hrows⟩, hpreX⟩, hpreY⟩, hphysX⟩, hphysY⟩, hnodupX⟩, hnodupY⟩ := h
  exact ⟨hchannels, hfits, hlanes, hrows, hpreX, hpreY, hphysX, hphysY, hnodupX, hnodupY⟩

/-- The parameters' part that the NOC engine uses: an admitted geometry, and fixed nodes inside the tables and the grid (00_scope.md R10). -/
theorem geometry_of_params {p : Params} (h : p.wf = true) : GeometryOk p.geo ∧ ∀ n ∈ p.fixedNodes, n.wf = true := by
  rw [Params.wf, Bool.and_eq_true, Bool.and_eq_true] at h
  obtain ⟨⟨_, hgeo⟩, hnodes⟩ := h
  exact ⟨geometryOk_of_wf hgeo, List.all_eq_true.mp hnodes⟩

/-- Settles O52: a bit of the two masks is one of the named columns and rows, all of them inside the grid, or a harvested column. -/
theorem broadcastMasks : Obligations.BroadcastMasks := by
  unfold Obligations.BroadcastMasks
  intro geo nodes h hwf
  have hgeo := geometryOk_of_wf hwf
  constructor
  · intro x
    have hwest := hgeo.physX_lt geo.gddrColW (by simp [Geometry.physXs])
    have heast := hgeo.physX_lt geo.gddrColE (by simp [Geometry.physXs])
    have hmgmt := hgeo.physX_lt geo.mgmtCol (by simp [Geometry.physXs])
    have hblind : x = geo.gddrColW ∨ x = geo.gddrColE ∨ x = geo.mgmtCol → x < 32 := by omega
    rw [computedTable_colMask, BitVec.getLsbD_or, Bool.or_eq_true, blindColMask_getLsbD, tensixMask_getLsbD, and_iff_right_of_imp hblind,
      or_assoc, or_assoc]
  · intro y
    have heth := hgeo.physY_lt geo.ethRow (by simp [Geometry.physYs])
    have hpcie := hgeo.physY_lt geo.pcieRow (by simp [Geometry.physYs])
    have hblind : y = geo.ethRow ∨ y = geo.pcieRow → y < 32 := by omega
    rw [computedTable_rowMask, blindRowMask_getLsbD, and_iff_right_of_imp hblind]

/-! ## The mirror -/

/-- A reflected value as a number (43_noc.md R286). -/
theorem reflect_toNat {size : Nat} (hsize : size ≤ 256) (v : Byte) :
    (reflect size v).toNat = if v.toNat < size then size - 1 - v.toNat else v.toNat := by
  unfold reflect
  split
  · rw [BitVec.toNat_ofNat, Nat.mod_eq_of_lt (by omega)]
  · rfl

theorem reflect_reflect {size : Nat} (hsize : size ≤ 256) (v : Byte) : reflect size (reflect size v) = v := by
  apply BitVec.eq_of_toNat_eq
  rw [reflect_toNat hsize, reflect_toNat hsize]
  by_cases hv : v.toNat < size
  · rw [if_pos hv, if_pos (by omega)]
    omega
  · rw [if_neg hv, if_neg hv]

/-- A reflected mask bit by bit (43_noc.md R286). -/
theorem reflectMask_getLsbD {size : Nat} (hsize : size ≤ 32) (m : Word) (x : Nat) :
    (reflectMask size m).getLsbD x = (decide (x < size) && m.getLsbD (size - 1 - x)) := by
  rw [Bool.eq_iff_iff, reflectMask, foldl_setBits_zero_getLsbD, Bool.and_eq_true, decide_eq_true_eq]
  simp only [List.mem_range]
  constructor
  · rintro ⟨_, i, hi, hbit, rfl⟩
    have hback : size - 1 - (size - 1 - i) = i := by omega
    exact ⟨by omega, by rwa [hback]⟩
  · rintro ⟨hx, hbit⟩
    exact ⟨by omega, size - 1 - x, by omega, hbit, by omega⟩

/-- A mask inside the grid is reflected to and fro (30_encoding.md R121). -/
theorem reflectMask_reflectMask {size : Nat} (hsize : size ≤ 32) (m : Word) (hm : m.toNat < 2 ^ size) :
    reflectMask size (reflectMask size m) = m := by
  apply BitVec.eq_of_getLsbD_eq
  intro x _
  rw [reflectMask_getLsbD hsize, reflectMask_getLsbD hsize]
  by_cases hx : x < size
  · have hback : size - 1 - (size - 1 - x) = x := by omega
    have hin : size - 1 - x < size := by omega
    rw [hback, decide_eq_true hx, decide_eq_true hin, Bool.true_and, Bool.true_and]
  · have hout : m.getLsbD x = false :=
      Nat.testBit_lt_two_pow (hm.trans_le (Nat.pow_le_pow_right (by decide) (Nat.le_of_not_lt hx)))
    rw [decide_eq_false hx, Bool.false_and, hout]

/-- Ring 1's physical values (43_noc.md R286). -/
theorem mirror_xAt (t : Table) (i : Nat) (hi : i < 32) : (mirror t).xAt i = if t.xAt i < 17 then 16 - t.xAt i else t.xAt i := by
  rw [Table.xAt, mirror, vget_vgen, if_pos hi]
  exact reflect_toNat (by decide) _

theorem mirror_yAt (t : Table) (i : Nat) (hi : i < 32) : (mirror t).yAt i = if t.yAt i < 12 then 11 - t.yAt i else t.yAt i := by
  rw [Table.yAt, mirror, vget_vgen, if_pos hi]
  exact reflect_toNat (by decide) _

/-- Ring 1's logical entries, by the node on ring 1 (43_noc.md R286). -/
theorem mirror_logicalAt (t : Table) (x y : Nat) (hx : x < 17) (hy : y < 12) : (mirror t).logicalAt x y = t.logicalAt (16 - x) (11 - y) := by
  rw [Table.logicalAt, mirror, vget_vgen, if_pos hx, vget_vgen, if_pos hy]

/-- Ring 1's logical entries, by the node on ring 0 (43_noc.md R286). -/
theorem mirror_logicalAt_reflected (t : Table) (x y : Nat) (hx : x < 17) (hy : y < 12) :
    (mirror t).logicalAt (16 - x) (11 - y) = t.logicalAt x y := by
  rw [mirror_logicalAt t _ _ (by omega) (by omega), Nat.sub_sub_self (by omega), Nat.sub_sub_self (by omega)]

/-- Two tables are equal when all their entries are. -/
theorem table_ext {t u : Table} (henable : t.enable = u.enable) (hx : ∀ i, i < 32 → vget t.xTable i 0 = vget u.xTable i 0)
    (hy : ∀ i, i < 32 → vget t.yTable i 0 = vget u.yTable i 0) (hcol : t.colMask = u.colMask) (hrow : t.rowMask = u.rowMask)
    (hlogical : ∀ x y, x < 17 → y < 12 → t.logicalAt x y = u.logicalAt x y) : t = u := by
  have hxs := vector_ext_vget 0 hx
  have hys := vector_ext_vget 0 hy
  have hls : t.logical = u.logical :=
    vector_ext_vget (Vector.replicate 12 0) (fun x hx => vector_ext_vget 0 (fun y hy => hlogical x y hx hy))
  cases t
  cases u
  rw [Table.mk.injEq]
  exact ⟨henable, hxs, hys, hcol, hrow, hls⟩

/-- The reflection is an involution on tables whose masks are inside the grid (43_noc.md R286). -/
theorem mirror_mirror (t : Table) (hcol : t.colMask.toNat < 2 ^ 17) (hrow : t.rowMask.toNat < 2 ^ 12) : mirror (mirror t) = t := by
  refine table_ext rfl (fun i hi => ?x) (fun i hi => ?y) (reflectMask_reflectMask (by decide) _ hcol)
    (reflectMask_reflectMask (by decide) _ hrow) (fun x y hx hy => ?logical)
  case x =>
    simp only [mirror, vget_vgen, if_pos hi]
    exact reflect_reflect (by decide) _
  case y =>
    simp only [mirror, vget_vgen, if_pos hi]
    exact reflect_reflect (by decide) _
  case logical =>
    rw [mirror_logicalAt _ x y hx hy, mirror_logicalAt_reflected t x y hx hy]

/-- Settles O51: each reading of the mirror, its involution, and the two operations that leave ring 1 the mirror of ring 0. -/
theorem mirrorLaw : Obligations.MirrorLaw := by
  unfold Obligations.MirrorLaw
  refine ⟨fun t => ⟨rfl, fun i hi => ⟨mirror_xAt t i hi, mirror_yAt t i hi⟩, mirror_logicalAt_reflected t,
    reflectMask_getLsbD (by decide) t.colMask, reflectMask_getLsbD (by decide) t.rowMask, mirror_mirror t⟩, fun s t => ⟨?clear, ?compute⟩⟩
  case clear =>
    intro h
    obtain rfl := Host.Outcome.next.inj ((exec_clear_loop s).symm.trans h)
    rfl
  case compute =>
    intro hv hnone h
    obtain rfl := Host.Outcome.next.inj ((exec_compute_loop hv).symm.trans h)
    rw [computeTables_of_nil hnone]
    rfl

end Sys2Proof.Machine
end

section
/-! PROOF. PROGRAM's event stream (O47), and COMPUTE where a class is violated: what a draw leaves alone (O46). -/

namespace Sys2Proof.Machine

/-! ## A double loop as one list -/

/-- Counting to `m * n` in `m` rounds of `n`. -/
theorem range_mul_eq_flatMap (m n : Nat) :
    List.range (m * n) = (List.range m).flatMap (fun k => (List.range n).map (fun r => k * n + r)) := by
  induction m with
  | zero => simp
  | succ m ih => rw [Nat.succ_mul, List.range_add, ih, List.range_succ, List.flatMap_append, List.flatMap_singleton]

/-- The nodes in programming order by their position (43_noc.md R289). -/
theorem nodeOrder_eq : nodeOrder = (List.range (17 * 12)).map (fun k => (k / 12, k % 12)) := by
  rw [range_mul_eq_flatMap, List.map_flatMap]
  unfold nodeOrder
  refine List.flatMap_congr (fun x _ => ?_)
  rw [List.map_map]
  refine List.map_congr_left (fun y hy => ?_)
  have hlt : y < 12 := List.mem_range.mp hy
  rw [Function.comp_apply, Prod.mk.injEq]
  omega

theorem nodeOrder_length : nodeOrder.length = 204 := by
  rw [nodeOrder_eq, List.length_map, List.length_range]

theorem nodeOrder_getElem? {x y : Nat} (hx : x < 17) (hy : y < 12) : nodeOrder[12 * x + y]? = some (x, y) := by
  rw [nodeOrder_eq, List.getElem?_map, List.getElem?_range (by omega), Option.map_some, Option.some_inj, Prod.mk.injEq]
  omega

/-! ## PROGRAM -/

theorem ringEvents_length (geo : Geometry) (r : Nat) (t : Table) : (ringEvents geo r t).length = 205 := by
  rw [ringEvents, List.length_append, List.length_map, nodeOrder_length, List.length_singleton]

/-- A ring's node write, by its node (43_noc.md R288, R289). -/
theorem ringEvents_write (geo : Geometry) (r : Nat) (t : Table) {x y : Nat} (hx : x < 17) (hy : y < 12) :
    (ringEvents geo r t)[12 * x + y]? = some (.nodeWrite r x y (nodeRec geo r x y t)) := by
  have hlt : 12 * x + y < (nodeOrder.map fun n => Event.nodeWrite r n.1 n.2 (nodeRec geo r n.1 n.2 t)).length := by
    rw [List.length_map, nodeOrder_length]
    omega
  rw [ringEvents, List.getElem?_append_left hlt, List.getElem?_map, nodeOrder_getElem? hx hy, Option.map_some]

/-- A ring's last event is the ARC node's enable (43_noc.md R289). -/
theorem ringEvents_enable (geo : Geometry) (r : Nat) (t : Table) :
    (ringEvents geo r t)[204]? = some (.nodeEnable r geo.arc.1 geo.arc.2 t.enable) := by
  have hlen : (nodeOrder.map fun n => Event.nodeWrite r n.1 n.2 (nodeRec geo r n.1 n.2 t)).length = 204 := by
    rw [List.length_map, nodeOrder_length]
  rw [ringEvents, List.getElem?_append_right hlen.le, hlen]
  rfl

/-- The record of a node of one of the two rings (43_noc.md R288). -/
theorem nodeRec_eq (geo : Geometry) (r x y : Nat) (t : Table) : nodeRec geo r x y t
    = ⟨t.xTable, t.yTable, t.colMask, t.rowMask, if r = 0 then t.logicalAt x y else t.logicalAt (16 - x) (11 - y),
        if (x, y) = geo.arc then none else some t.enable⟩ := by
  by_cases hr : r = 0
  · simp only [nodeRec, ringNode, if_pos hr]
  · simp only [nodeRec, ringNode, if_neg hr]
    rfl

/-- PROGRAM's `j`-th event of ring `r` (43_noc.md R288). -/
theorem programNodes_event {s : State} {r : Nat} {T : Table} (hr : (r, T) ∈ [(0, s.noc.ring0), (1, s.noc.ring1)]) {j : Nat} (hj : j < 205) :
    (programNodes s).events[s.events.length + 205 * r + j]?
      = (ringEvents s.cfg.geo r T)[j]?.map (fun e => (s.events.length + 205 * r + j, e)) := by
  have hring : (ringEvents s.cfg.geo 0 s.noc.ring0 ++ ringEvents s.cfg.geo 1 s.noc.ring1)[205 * r + j]? = (ringEvents s.cfg.geo r T)[j]? := by
    have hlen := ringEvents_length s.cfg.geo 0 s.noc.ring0
    rw [List.mem_pair, Prod.mk.injEq, Prod.mk.injEq] at hr
    rcases hr with ⟨rfl, rfl⟩ | ⟨rfl, rfl⟩
    · rw [List.getElem?_append_left (by omega), Nat.mul_zero, Nat.zero_add]
    · rw [List.getElem?_append_right (by omega), hlen, Nat.mul_one, Nat.add_sub_cancel_left]
  rw [programNodes_events, Nat.add_assoc, List.getElem?_append_right (Nat.le_add_right _ _), Nat.add_sub_cancel_left,
    numberEvents_getElem?, hring]

/-- Settles O47: two rings of 205 events each, numbered on from the events that stand already. -/
theorem programMeaning : Obligations.ProgramMeaning := by
  unfold Obligations.ProgramMeaning
  intro a s
  refine ⟨fun ha => if_pos ha, ?programs⟩
  rintro rfl
  refine ⟨_, exec_program_loop s, rfl, ?count, List.prefix_append _ _, ?events⟩
  case count =>
    rw [State.finish_events, programNodes_events, List.length_append, numberEvents_length, List.length_append, ringEvents_length,
      ringEvents_length]
  case events =>
    intro r T hr
    refine ⟨?_, fun x y hx hy => ?_⟩
    · rw [State.finish_events, programNodes_event hr (by decide), ringEvents_enable, Option.map_some]
    · rw [State.finish_events, Nat.add_assoc _ (12 * x), programNodes_event hr (by omega), ringEvents_write _ _ _ hx hy, Option.map_some,
        nodeRec_eq]

/-! ## A draw -/

section
variable {geo : Geometry} {d r : Nat} {c : TileClass}

/-- A draw leaves every reading alone that none of its three loops changes. -/
theorem drawClass_keeps {γ : Type} (view : Table → γ) (t : Table)
    (hx : ∀ t, ∀ i ∈ classXs geo c, view { t with xTable := vset t.xTable i (Config.drawX d r i) } = view t)
    (hy : ∀ t, ∀ i ∈ classYs geo c, view { t with yTable := vset t.yTable i (Config.drawY d r i) } = view t)
    (hl : ∀ t : Table, ∀ n ∈ (classNodes geo c).map (ringNode r), view (t.setLogical n.1 n.2 (Config.drawLogical d r n.1 n.2)) = view t) :
    view (drawClass geo d r c t) = view t :=
  (foldl_keeps _ view _ _ hl).trans ((foldl_keeps _ view _ _ hy).trans (foldl_keeps _ view _ _ hx))

/-- A draw leaves the enable and the masks as computed (43_noc.md R287). -/
theorem drawClass_enable (t : Table) : (drawClass geo d r c t).enable = t.enable :=
  drawClass_keeps Table.enable t (fun _ _ _ => rfl) (fun _ _ _ => rfl) (fun _ _ _ => rfl)

theorem drawClass_colMask (t : Table) : (drawClass geo d r c t).colMask = t.colMask :=
  drawClass_keeps Table.colMask t (fun _ _ _ => rfl) (fun _ _ _ => rfl) (fun _ _ _ => rfl)

theorem drawClass_rowMask (t : Table) : (drawClass geo d r c t).rowMask = t.rowMask :=
  drawClass_keeps Table.rowMask t (fun _ _ _ => rfl) (fun _ _ _ => rfl) (fun _ _ _ => rfl)

theorem drawClass_xAt_other (t : Table) (i : Nat) (h : i ∉ classXs geo c) : (drawClass geo d r c t).xAt i = t.xAt i := by
  refine drawClass_keeps (fun t => t.xAt i) t (fun t j hj => ?_) (fun _ _ _ => rfl) (fun _ _ _ => rfl)
  have hne : i ≠ j := fun e => h (e ▸ hj)
  exact congrArg BitVec.toNat (vget_vset_other t.xTable j i _ 0 hne)

theorem drawClass_yAt_other (t : Table) (i : Nat) (h : i ∉ classYs geo c) : (drawClass geo d r c t).yAt i = t.yAt i := by
  refine drawClass_keeps (fun t => t.yAt i) t (fun _ _ _ => rfl) (fun t j hj => ?_) (fun _ _ _ => rfl)
  have hne : i ≠ j := fun e => h (e ▸ hj)
  exact congrArg BitVec.toNat (vget_vset_other t.yTable j i _ 0 hne)

theorem drawClass_logicalAt_other (t : Table) (x y : Nat) (h : (x, y) ∉ (classNodes geo c).map (ringNode r)) :
    (drawClass geo d r c t).logicalAt x y = t.logicalAt x y := by
  refine drawClass_keeps (fun t => t.logicalAt x y) t (fun _ _ _ => rfl) (fun _ _ _ => rfl) (fun t n hn => ?_)
  have hne : ¬(x = n.1 ∧ y = n.2 ∧ n.1 < 17 ∧ n.2 < 12) := by
    rintro ⟨rfl, rfl, _⟩
    exact h hn
  exact (Table.logicalAt_setLogical t _ _ x y _).trans (if_neg hne)

end

/-! ## The draws of COMPUTE -/

section
variable {geo : Geometry} {d r : Nat} {cs : List TileClass}

/-- What no class of a list draws, all their draws leave alone. -/
theorem drawClasses_keeps {γ : Type} (view : Table → γ) (t : Table) (h : ∀ t, ∀ c ∈ cs, view (drawClass geo d r c t) = view t) :
    view (drawClasses geo d r cs t) = view t := foldl_keeps _ view cs t h

/-- Draws touch no enable, no mask, and of the axes the violated classes' indices only (43_noc.md R287). -/
theorem drawClasses_frame (t : Table) : (drawClasses geo d r cs t).enable = t.enable ∧ (drawClasses geo d r cs t).colMask = t.colMask
    ∧ (drawClasses geo d r cs t).rowMask = t.rowMask
    ∧ (∀ i, (∀ c ∈ cs, i ∉ classXs geo c) → (drawClasses geo d r cs t).xAt i = t.xAt i)
    ∧ (∀ i, (∀ c ∈ cs, i ∉ classYs geo c) → (drawClasses geo d r cs t).yAt i = t.yAt i) :=
  ⟨drawClasses_keeps Table.enable t (fun t _ _ => drawClass_enable t), drawClasses_keeps Table.colMask t (fun t _ _ => drawClass_colMask t),
    drawClasses_keeps Table.rowMask t (fun t _ _ => drawClass_rowMask t),
    fun i h => drawClasses_keeps (fun t => t.xAt i) t (fun t c hc => drawClass_xAt_other t i (h c hc)),
    fun i h => drawClasses_keeps (fun t => t.yAt i) t (fun t c hc => drawClass_yAt_other t i (h c hc))⟩

/-- Nor any logical entry but those of the violated classes' nodes (43_noc.md R287). -/
theorem drawClasses_logicalAt_other (t : Table) (x y : Nat) (h : ∀ c ∈ cs, (x, y) ∉ (classNodes geo c).map (ringNode r)) :
    (drawClasses geo d r cs t).logicalAt x y = t.logicalAt x y :=
  drawClasses_keeps (fun t => t.logicalAt x y) t (fun t c hc => drawClass_logicalAt_other t x y (h c hc))

end

/-- A class's nodes by their coordinates (43_noc.md R283). -/
theorem mem_classNodes_tensix (geo : Geometry) (x y : Nat) : (x, y) ∈ classNodes geo .tensix ↔ x ∈ tensixCols ∧ y ∈ geo.tensixRows :=
  List.pair_mem_product

theorem mem_classNodes_gddr (geo : Geometry) (x y : Nat) :
    (x, y) ∈ classNodes geo .gddr ↔ (x = geo.gddrColW ∨ x = geo.gddrColE) ∧ y < geo.gddrPerCol * geo.gddrRowsPer :=
  List.pair_mem_product.trans (and_congr List.mem_pair List.mem_range)

/-- Every node of a class is inside the grid (43_noc.md R271). -/
theorem classNodes_inside {geo : Geometry} (h : GeometryOk geo) {c : TileClass} {x y : Nat} (hm : (x, y) ∈ classNodes geo c) :
    x < 17 ∧ y < 12 := by
  cases c with
  | tensix =>
    obtain ⟨hx, hy⟩ := (mem_classNodes_tensix geo x y).mp hm
    have hcols : ∀ x ∈ tensixCols, x < 17 := by decide
    exact ⟨hcols x hx, h.physY_lt y (by simp [Geometry.physYs, hy])⟩
  | gddr =>
    obtain ⟨hx, hy⟩ := (mem_classNodes_gddr geo x y).mp hm
    exact ⟨h.physX_lt x (by rcases hx with rfl | rfl <;> simp [Geometry.physXs]), hy.trans_le h.dramFits⟩

/-- On ring 1 a class draws the reflections of its nodes and no other node (43_noc.md R286, R287). -/
theorem reflected_mem_classNodes {geo : Geometry} (h : GeometryOk geo) {c : TileClass} {x y : Nat} (hx : x < 17) (hy : y < 12)
    (hm : (16 - x, 11 - y) ∈ (classNodes geo c).map (ringNode 1)) : (x, y) ∈ classNodes geo c := by
  obtain ⟨⟨u, v⟩, huv, he⟩ := List.mem_map.mp hm
  obtain ⟨hu, hv⟩ := classNodes_inside h huv
  simp only [ringNode, nocXSize, nocYSize, one_ne_zero, if_false, Prod.mk.injEq] at he
  obtain ⟨rfl, rfl⟩ : u = x ∧ v = y := by omega
  exact huv

/-- The fault set after a record for each of some classes. -/
theorem mem_foldl_addFault (rec : TileClass → FaultRec) (cs : List TileClass) (fs : List FaultRec) (f : FaultRec) :
    f ∈ cs.foldl (fun fs c => addFault (rec c) fs) fs ↔ (∃ c ∈ cs, f = rec c) ∨ f ∈ fs := by
  induction cs generalizing fs with
  | nil => simp
  | cons c cs ih =>
    rw [List.foldl_cons, ih, mem_addFault, List.exists_mem_cons_iff]
    exact or_left_comm.trans or_assoc.symm

/-- The fault set after COMPUTE's notes (43_noc.md R287). -/
theorem mem_computeTables_fault (op : Byte) (s : State) (f : FaultRec) : f ∈ (computeTables op s).fault
    ↔ (∃ c ∈ violatedClasses s.cfg s.noc.harv, f = ⟨.precond, op, classInfo c⟩) ∨ f ∈ s.fault := by
  rw [computeTables_fault]
  exact mem_foldl_addFault (fun c => ⟨.precond, op, classInfo c⟩) _ _ f

/-- On ring 0 a node has its physical coordinate (43_noc.md R288). -/
theorem mem_map_ringNode_zero (l : List (Nat × Nat)) (n : Nat × Nat) : n ∈ l.map (ringNode 0) ↔ n ∈ l := by
  have hid : ringNode 0 = id := rfl
  rw [hid, List.map_id]

/-- A statement about every violated class, class by class (43_noc.md R287). -/
theorem forall_violatedClasses {p : Params} {h : Harvest} {P : TileClass → Prop} : (∀ c ∈ violatedClasses p h, P c)
    ↔ (h.tensixBad.extractLsb' 0 14 = 0x3FFF → P .tensix) ∧ (h.gddrBad ≠ p.gddrNone ∧ p.geo.nGddr ≤ h.gddrBad.toNat → P .gddr) := by
  rw [← tensix_mem_violatedClasses p, ← gddr_mem_violatedClasses]
  exact ⟨fun hall => ⟨hall _, hall _⟩, fun ⟨htensix, hgddr⟩ c => by cases c <;> assumption⟩

/-- The fault set after COMPUTE's notes, class by class (43_noc.md R287; 60_exceptions.md R342). -/
theorem mem_computeTables_fault_iff (op : Byte) (s : State) (f : FaultRec) : f ∈ (computeTables op s).fault
    ↔ (s.noc.harv.tensixBad.extractLsb' 0 14 = 0x3FFF ∧ f = ⟨.precond, op, 0⟩)
      ∨ ((s.noc.harv.gddrBad ≠ s.cfg.gddrNone ∧ s.cfg.geo.nGddr ≤ s.noc.harv.gddrBad.toNat) ∧ f = ⟨.precond, op, 1⟩) ∨ f ∈ s.fault := by
  rw [mem_computeTables_fault, ← tensix_mem_violatedClasses s.cfg, ← gddr_mem_violatedClasses, ← or_assoc]
  refine or_congr_left ⟨?_, ?_⟩
  · rintro ⟨_ | _, hc, hf⟩
    · exact .inl ⟨hc, hf⟩
    · exact .inr ⟨hc, hf⟩
  · rintro (⟨hc, hf⟩ | ⟨hc, hf⟩) <;> exact ⟨_, hc, hf⟩

/-- Settles O46: the draws' lemmas for the classes that are violated, on ring 0 and, by reflection, on ring 1. -/
theorem computeViolated : Obligations.ComputeViolated := by
  unfold Obligations.ComputeViolated
  intro s tx gd hwf hv htx hgd hsome
  rw [htx, hgd] at hsome
  simp only [htx, hgd]
  obtain ⟨hgeo, _⟩ := geometry_of_params hwf
  have hnoc := computeTables_noc 0x41 s
  refine ⟨_, exec_compute_loop hv, ?flag, ?harv, ?valid, mem_computeTables_fault_iff 0x41 s,
    congrArg (State.finish .loop .ok) (computeTables_frame 0x41 s), ?tables, ?logical⟩
  case flag =>
    have hne : violatedClasses s.cfg s.noc.harv ≠ [] := by
      rw [← tensix_mem_violatedClasses s.cfg, ← gddr_mem_violatedClasses] at hsome
      exact hsome.elim List.ne_nil_of_mem List.ne_nil_of_mem
    rw [State.finish_noc, hnoc]
    simp [hne]
  case harv => rw [State.finish_noc, hnoc]
  case valid => rw [State.finish_noc, hnoc, hv]
  case tables =>
    intro r T hring
    obtain ⟨k, rfl⟩ : ∃ k, r = drawClasses s.cfg.geo s.draws k (violatedClasses s.cfg s.noc.harv) T := by
      rw [State.finish_noc, hnoc, List.mem_pair, Prod.mk.injEq, Prod.mk.injEq] at hring
      rcases hring with ⟨rfl, rfl⟩ | ⟨rfl, rfl⟩ <;> exact ⟨_, rfl⟩
    obtain ⟨henable, hcol, hrow, hx, hy⟩ := drawClasses_frame T
    refine ⟨henable, hcol, hrow, fun i htensix hgddr => hx i ?_, fun i hgddr => hy i ?_⟩
    · exact forall_violatedClasses.mpr ⟨htensix, fun h => by simpa [classXs] using hgddr h⟩
    · exact forall_violatedClasses.mpr ⟨fun _ => List.not_mem_nil, hgddr⟩
  case logical =>
    intro x y hx hy htensix hgddr
    have houtside : ∀ c ∈ violatedClasses s.cfg s.noc.harv, (x, y) ∉ classNodes s.cfg.geo c := forall_violatedClasses.mpr
      ⟨fun h => (mem_classNodes_tensix _ x y).not.mpr (htensix h), fun h => (mem_classNodes_gddr _ x y).not.mpr (hgddr h)⟩
    rw [State.finish_noc, hnoc]
    exact ⟨drawClasses_logicalAt_other _ x y (fun c hc hm => houtside c hc ((mem_map_ringNode_zero _ _).mp hm)),
      drawClasses_logicalAt_other _ _ _ (fun c hc hm => houtside c hc (reflected_mem_classNodes hgeo hx hy hm))⟩

end Sys2Proof.Machine
end

section
/-! PROOF. COMPUTE's axes class by class (O49): what each class's own loop writes, and that no later loop writes there again. -/

namespace Sys2Proof.Machine

/-! ## Loops of writes -/

/-- What a reading shows after a loop of writes: a write of the loop that hits it, the last one, or, where none does, what it showed before. `P` is what every write keeps. -/
theorem foldl_last_write_of {α β γ : Type} (f : α → β → α) (view : α → γ) (hits : β → Prop) [DecidablePred hits] (val : β → γ) (P : α → Prop)
    (l : List β) (a : α) (ha : P a) (hP : ∀ a, P a → ∀ b ∈ l, P (f a b))
    (h : ∀ a, P a → ∀ b ∈ l, view (f a b) = if hits b then val b else view a) :
    (∃ b ∈ l, hits b ∧ view (l.foldl f a) = val b) ∨ ((∀ b ∈ l, ¬hits b) ∧ view (l.foldl f a) = view a) := by
  induction l generalizing a with
  | nil => exact .inr ⟨fun _ hb => (nomatch hb), rfl⟩
  | cons b l ih =>
    have hb := h a ha b List.mem_cons_self
    rw [List.foldl_cons]
    rcases ih (f a b) (hP a ha b List.mem_cons_self) (fun a ha c hc => hP a ha c (List.mem_cons_of_mem _ hc))
      (fun a ha c hc => h a ha c (List.mem_cons_of_mem _ hc)) with ⟨c, hc, hhit, hval⟩ | ⟨hnone, hval⟩
    · exact .inl ⟨c, List.mem_cons_of_mem _ hc, hhit, hval⟩
    · by_cases hhit : hits b
      · exact .inl ⟨b, List.mem_cons_self, hhit, by rw [hval, hb, if_pos hhit]⟩
      · exact .inr ⟨List.forall_mem_cons.mpr ⟨hhit, hnone⟩, by rw [hval, hb, if_neg hhit]⟩

/-- The same for writes that need nothing kept. -/
theorem foldl_last_write {α β γ : Type} (f : α → β → α) (view : α → γ) (hits : β → Prop) [DecidablePred hits] (val : β → γ)
    (l : List β) (a : α) (h : ∀ a, ∀ b ∈ l, view (f a b) = if hits b then val b else view a) :
    (∃ b ∈ l, hits b ∧ view (l.foldl f a) = val b) ∨ ((∀ b ∈ l, ¬hits b) ∧ view (l.foldl f a) = view a) :=
  foldl_last_write_of f view hits val (fun _ => True) l a trivial (fun _ _ _ _ => trivial) (fun a _ => h a)

/-- A reading that the loop hits, with one value whenever it does, shows that value. -/
theorem foldl_write_eq {α β γ : Type} (f : α → β → α) (view : α → γ) (hits : β → Prop) [DecidablePred hits] (val : β → γ)
    (l : List β) (a : α) (h : ∀ a, ∀ b ∈ l, view (f a b) = if hits b then val b else view a) {b : β} (hb : b ∈ l) (hhit : hits b)
    (hsame : ∀ c ∈ l, hits c → val c = val b) : view (l.foldl f a) = val b := by
  rcases foldl_last_write f view hits val l a h with ⟨c, hc, hhitc, hval⟩ | ⟨hnone, _⟩
  · rw [hval, hsame c hc hhitc]
  · exact absurd hhit (hnone b hb)

/-- An index of `x_table` that a loop writes, with one value whenever it does, holds that value. -/
theorem xAt_foldl_setX {β : Type} (index value : β → Nat) (l : List β) (t : Table) {b : β} (hb : b ∈ l) (hindex : index b < 32)
    (hvalue : value b < 256) (hsame : ∀ c ∈ l, index b = index c → value c = value b) :
    (l.foldl (fun t c => t.setX (index c) (value c)) t).xAt (index b) = value b :=
  (foldl_write_eq _ (fun t : Table => t.xAt (index b)) (fun c => index b = index c ∧ index c < 32) (fun c => value c % 256) l t
    (fun a _ _ => Table.xAt_setX a _ _ _) hb ⟨rfl, hindex⟩ (fun c hc hhit => by rw [hsame c hc hhit.1])).trans (Nat.mod_eq_of_lt hvalue)

/-- The same for `y_table`. -/
theorem yAt_foldl_setY {β : Type} (index value : β → Nat) (l : List β) (t : Table) {b : β} (hb : b ∈ l) (hindex : index b < 32)
    (hvalue : value b < 256) (hsame : ∀ c ∈ l, index b = index c → value c = value b) :
    (l.foldl (fun t c => t.setY (index c) (value c)) t).yAt (index b) = value b :=
  (foldl_write_eq _ (fun t : Table => t.yAt (index b)) (fun c => index b = index c ∧ index c < 32) (fun c => value c % 256) l t
    (fun a _ _ => Table.yAt_setY a _ _ _) hb ⟨rfl, hindex⟩ (fun c hc hhit => by rw [hsame c hc hhit.1])).trans (Nat.mod_eq_of_lt hvalue)

/-! ## The compute columns -/

/-- The slot order is a permutation of the columns (43_noc.md R277). -/
theorem tensixOrder_perm (bad : Half) : (tensixOrder bad).Perm tensixCols := by
  have hsplit : ((List.range 14).filter (fun i => !bad.getLsbD i) ++ (List.range 14).reverse.filter (fun i => bad.getLsbD i)).Perm
      (List.range 14) := by
    rw [List.filter_reverse]
    refine (List.Perm.append_left _ (List.reverse_perm _)).trans (List.perm_append_comm.trans ?_)
    exact List.filter_append_perm (fun i => bad.getLsbD i) _
  have hmap := hsplit.map (fun i => tensixCols.getD i 0)
  rw [List.map_append] at hmap
  exact hmap

/-- A loop of writes of `x_table`, one for each of some indices that differ, leaves there the values in order. -/
theorem map_xAt_foldl_setX (ks vs : List Nat) (t : Table) (hlen : ks.length = vs.length) (hnodup : ks.Nodup) (hks : ∀ k ∈ ks, k < 32)
    (hvs : ∀ v ∈ vs, v < 256) : ks.map ((ks.zip vs).foldl (fun t p => t.setX p.1 p.2) t).xAt = vs := by
  induction ks generalizing vs t with
  | nil => exact (List.length_eq_zero_iff.mp hlen.symm).symm
  | cons k ks ih =>
    obtain ⟨v, vs, rfl⟩ := List.exists_cons_of_length_pos (hlen ▸ Nat.succ_pos _ : 0 < vs.length)
    obtain ⟨hk, hnodup⟩ := List.nodup_cons.mp hnodup
    obtain ⟨hklt, hks⟩ := List.forall_mem_cons.mp hks
    obtain ⟨hvlt, hvs⟩ := List.forall_mem_cons.mp hvs
    have hlater : ((ks.zip vs).foldl (fun t p => t.setX p.1 p.2) (t.setX k v)).xAt k = (t.setX k v).xAt k :=
      foldl_keeps _ (fun t : Table => t.xAt k) _ _ (fun a p hp => by
        have hne : k ≠ p.1 := fun e => hk (e ▸ (List.of_mem_zip hp).1)
        rw [Table.xAt_setX, if_neg (fun e => hne e.1)])
    rw [List.zip_cons_cons, List.foldl_cons, List.map_cons, hlater, Table.xAt_setX, if_pos ⟨rfl, hklt⟩, Nat.mod_eq_of_lt hvlt,
      ih vs _ (Nat.succ_injective hlen) hnodup hks hvs]

/-- TENSIX_X fills the compute slots in order (43_noc.md R277). -/
theorem map_xAt_tensixX (bad : Half) (t : Table) : tensixCols.map (tensixX bad t).xAt = tensixOrder bad := by
  have hperm := tensixOrder_perm bad
  have hcols : ∀ v ∈ tensixCols, v < 256 := by decide
  exact map_xAt_foldl_setX _ _ t hperm.length_eq.symm (by decide) (by decide) (fun v hv => hcols v (hperm.mem_iff.mp hv))

/-! ## DRAM -/

/-- A bad channel's position is one of its column's (43_noc.md R279). -/
theorem gddrHalf_of_lt {geo : Geometry} {g : Byte} (h : g.toNat < geo.nGddr) :
    gddrHalf geo g = (g.toNat / geo.gddrPerCol, some (g.toNat % geo.gddrPerCol)) := if_pos h

theorem gddrHalf_of_ge {geo : Geometry} {g : Byte} (h : geo.nGddr ≤ g.toNat) : gddrHalf geo g = (1, none) := if_neg (Nat.not_lt.mpr h)

theorem gddrHalf_eq_zero (geo : Geometry) (g : Byte) : (gddrHalf geo g).1 = 0 ↔ g.toNat < geo.nGddr ∧ g.toNat / geo.gddrPerCol = 0 := by
  rcases Nat.lt_or_ge g.toNat geo.nGddr with h | h
  · rw [gddrHalf_of_lt h, and_iff_right h]
  · rw [gddrHalf_of_ge h]
    simp [Nat.not_lt.mpr h]

/-- The DRAM columns: the half with the bad channel becomes east (43_noc.md R279). -/
theorem dramXY_xAt {geo : Geometry} (hgeo : GeometryOk geo) (hne : geo.dramPreXW ≠ geo.dramPreXE) (g : Byte) (t : Table) :
    if g.toNat < geo.nGddr ∧ g.toNat / geo.gddrPerCol = 0
    then (dramXY geo g t).xAt geo.dramPreXW = geo.gddrColE ∧ (dramXY geo g t).xAt geo.dramPreXE = geo.gddrColW
    else (dramXY geo g t).xAt geo.dramPreXW = geo.gddrColW ∧ (dramXY geo g t).xAt geo.dramPreXE = geo.gddrColE := by
  have hpreW := hgeo.preX_lt geo.dramPreXW (by simp [Geometry.preXs])
  have hpreE := hgeo.preX_lt geo.dramPreXE (by simp [Geometry.preXs])
  have hW : geo.gddrColW % 256 = geo.gddrColW :=
    Nat.mod_eq_of_lt ((hgeo.physX_lt geo.gddrColW (by simp [Geometry.physXs])).trans (by decide))
  have hE : geo.gddrColE % 256 = geo.gddrColE :=
    Nat.mod_eq_of_lt ((hgeo.physX_lt geo.gddrColE (by simp [Geometry.physXs])).trans (by decide))
  simp only [dramXY, dramY_xAt, gddrHalf_eq_zero]
  split <;> simp [Table.xAt_setX, hne, hpreW, hpreE, hW, hE]

/-- The positions of the good channels, in order (43_noc.md R280). -/
theorem dramPositions_good {geo : Geometry} {b : Nat} (hb : b < geo.gddrPerCol) :
    (List.range geo.gddrPerCol).filter (fun p => decide (some p ≠ some b)) = (List.range geo.gddrPerCol).eraseIdx b := by
  have hat := List.nodup_range.erase_getElem b (by rwa [List.length_range])
  rw [List.getElem_range, List.nodup_range.erase_eq_filter] at hat
  rw [← hat]
  exact List.filter_congr (fun p _ => by simp [bne, beq_eq_decide])

/-- The DRAM positions are those of a column, in some order (43_noc.md R280). -/
theorem dramPositions_perm {geo : Geometry} {bad : Option Nat} (h : ∀ b, bad = some b → b < geo.gddrPerCol) :
    (dramPositions geo bad).Perm (List.range geo.gddrPerCol) := by
  cases bad with
  | none => simp [dramPositions]
  | some b =>
    have hb := h b rfl
    have hall := List.getElem_cons_eraseIdx_perm (l := List.range geo.gddrPerCol) (n := b) (by rwa [List.length_range])
    rw [List.getElem_range] at hall
    rw [dramPositions, dramPositions_good hb, Option.toList_some]
    exact (List.perm_append_singleton b _).trans hall

/-- With no bad channel the positions keep their order (43_noc.md R280). -/
theorem dramPositions_getD_none (geo : Geometry) {k : Nat} (hk : k < geo.gddrPerCol) : (dramPositions geo none).getD k 0 = k := by
  simp [dramPositions, hk]

/-- The bad position is last, and those above it move down by one (43_noc.md R280). -/
theorem dramPositions_getD_some (geo : Geometry) {b k : Nat} (hb : b < geo.gddrPerCol) (hk : k < geo.gddrPerCol) :
    (dramPositions geo (some b)).getD k 0 = if k + 1 = geo.gddrPerCol then b else if k < b then k else k + 1 := by
  rw [dramPositions, dramPositions_good hb, Option.toList_some, List.getD_eq_getElem?_getD]
  have hlen : ((List.range geo.gddrPerCol).eraseIdx b).length = geo.gddrPerCol - 1 := by
    rw [List.length_eraseIdx_of_lt (by rwa [List.length_range]), List.length_range]
  by_cases hlast : k + 1 = geo.gddrPerCol
  · rw [if_pos hlast, List.getElem?_append_right (by omega), hlen, show k - (geo.gddrPerCol - 1) = 0 by omega]
    rfl
  · rw [if_neg hlast, List.getElem?_append_left (by omega), List.getElem?_eraseIdx]
    by_cases hkb : k < b
    · rw [if_pos hkb, if_pos hkb, List.getElem?_range (by omega)]
      rfl
    · rw [if_neg hkb, if_neg hkb, List.getElem?_range (by omega)]
      rfl

/-- The DRAM rows by their column position and row within it, in the order in which DRAM_Y writes them (43_noc.md R280). -/
def dramSlots (geo : Geometry) : List (Nat × Nat) := (List.range geo.gddrPerCol).product (List.range geo.gddrRowsPer)

theorem mem_dramSlots (geo : Geometry) (k r : Nat) : (k, r) ∈ dramSlots geo ↔ k < geo.gddrPerCol ∧ r < geo.gddrRowsPer :=
  List.pair_mem_product.trans (and_congr List.mem_range List.mem_range)

/-- DRAM_Y as one loop (43_noc.md R280). -/
theorem dramY_eq (geo : Geometry) (bad : Option Nat) (t : Table) : dramY geo bad t = (dramSlots geo).foldl (fun t s =>
    t.setY (geo.dramPreY0 + s.1 * geo.gddrRowsPer + s.2) ((dramPositions geo bad).getD s.1 0 * geo.gddrRowsPer + s.2)) t := by
  unfold dramY dramSlots List.product
  rw [List.foldl_flatMap]
  simp only [List.foldl_map]

/-- A pre row of DRAM is known by its column position and its row within it. -/
theorem dramSlot_unique {R k r k' r' : Nat} (hr : r < R) (hr' : r' < R) (h : k * R + r = k' * R + r') : k = k' ∧ r = r' := by
  have hR : 0 < R := Nat.zero_lt_of_lt hr
  have hk : k = k' := by
    have hdiv := congrArg (· / R) h
    simpa [Nat.add_comm, Nat.add_mul_div_right, hR, Nat.div_eq_of_lt, hr, hr'] using hdiv
  subst hk
  exact ⟨rfl, Nat.add_left_cancel h⟩

/-- A pre row of DRAM is one of the range. -/
theorem mem_dramPreYs (geo : Geometry) {k r : Nat} (hk : k < geo.gddrPerCol) (hr : r < geo.gddrRowsPer) :
    geo.dramPreY0 + k * geo.gddrRowsPer + r ∈ geo.dramPreYs := by
  have hround := Nat.mul_le_mul_right geo.gddrRowsPer hk
  rw [Nat.succ_mul] at hround
  rw [Geometry.dramPreYs, List.mem_range'_1]
  omega

/-- The DRAM rows: each pre row holds the row of its position in the new order (43_noc.md R280). -/
theorem dramY_yAt {geo : Geometry} (hgeo : GeometryOk geo) {bad : Option Nat} (hbad : ∀ b, bad = some b → b < geo.gddrPerCol) (t : Table)
    {k r : Nat} (hk : k < geo.gddrPerCol) (hr : r < geo.gddrRowsPer) :
    (dramY geo bad t).yAt (geo.dramPreY0 + k * geo.gddrRowsPer + r) = (dramPositions geo bad).getD k 0 * geo.gddrRowsPer + r := by
  have hpre : geo.dramPreY0 + k * geo.gddrRowsPer + r < 32 := hgeo.preY_lt _ (by simp [Geometry.preYs, mem_dramPreYs geo hk hr])
  have hperm := dramPositions_perm hbad
  have hlen : k < (dramPositions geo bad).length := by rwa [hperm.length_eq, List.length_range]
  have hpos : (dramPositions geo bad).getD k 0 < geo.gddrPerCol := by
    rw [List.getD_eq_getElem _ _ hlen]
    exact List.mem_range.mp (hperm.mem_iff.mp (List.getElem_mem hlen))
  have hround := (Nat.mul_le_mul_right geo.gddrRowsPer hpos).trans hgeo.dramFits
  rw [Nat.succ_mul] at hround
  have hsame : ∀ s ∈ dramSlots geo, geo.dramPreY0 + k * geo.gddrRowsPer + r = geo.dramPreY0 + s.1 * geo.gddrRowsPer + s.2 →
      (dramPositions geo bad).getD s.1 0 * geo.gddrRowsPer + s.2 = (dramPositions geo bad).getD k 0 * geo.gddrRowsPer + r := by
    intro s hs hindex
    rw [Nat.add_assoc, Nat.add_assoc] at hindex
    obtain ⟨hk', hr'⟩ := dramSlot_unique hr ((mem_dramSlots geo s.1 s.2).mp hs).2 (Nat.add_left_cancel hindex)
    rw [hk', hr']
  have hvalue : (dramPositions geo bad).getD k 0 * geo.gddrRowsPer + r < 256 := by omega
  rw [dramY_eq]
  exact yAt_foldl_setY (fun s : Nat × Nat => geo.dramPreY0 + s.1 * geo.gddrRowsPer + s.2) _ (dramSlots geo) t
    ((mem_dramSlots geo k r).mpr ⟨hk, hr⟩) hpre hvalue hsame

/-- DRAM_Y writes the DRAM pre rows only. -/
theorem dramY_yAt_other (geo : Geometry) (bad : Option Nat) (t : Table) {i : Nat} (h : i ∉ geo.dramPreYs) : (dramY geo bad t).yAt i = t.yAt i := by
  rw [dramY_eq]
  refine foldl_keeps _ (fun t : Table => t.yAt i) _ _ (fun a s hs => ?_)
  obtain ⟨hk, hr⟩ := (mem_dramSlots geo s.1 s.2).mp hs
  have hne : i ≠ geo.dramPreY0 + s.1 * geo.gddrRowsPer + s.2 := fun e => h (e ▸ mem_dramPreYs geo hk hr)
  exact (Table.yAt_setY a _ _ _).trans (if_neg (fun e => hne e.1))

/-- A table whose pre rows of DRAM hold the rows position by position maps them onto the DRAM rows, each once (43_noc.md R280). -/
theorem map_dramPreYs_perm {geo : Geometry} {bad : Option Nat} (hbad : ∀ b, bad = some b → b < geo.gddrPerCol) {f : Nat → Nat}
    (hf : ∀ k r, k < geo.gddrPerCol → r < geo.gddrRowsPer →
      f (geo.dramPreY0 + k * geo.gddrRowsPer + r) = (dramPositions geo bad).getD k 0 * geo.gddrRowsPer + r) :
    (geo.dramPreYs.map f).Perm (List.range (geo.gddrPerCol * geo.gddrRowsPer)) := by
  have hperm := dramPositions_perm hbad
  have hlen : (dramPositions geo bad).length = geo.gddrPerCol := by rw [hperm.length_eq, List.length_range]
  have hpositions : (List.range geo.gddrPerCol).map (fun k => (dramPositions geo bad).getD k 0) = dramPositions geo bad :=
    List.ext_getElem (by rw [List.length_map, List.length_range, hlen]) (fun i _ hi => by
      rw [List.getElem_map, List.getElem_range, List.getD_eq_getElem _ _ hi])
  have hmap : geo.dramPreYs.map f
      = (dramPositions geo bad).flatMap (fun p => (List.range geo.gddrRowsPer).map (fun r => p * geo.gddrRowsPer + r)) := by
    rw [← hpositions, List.flatMap_map, Geometry.dramPreYs, List.range'_eq_map_range, range_mul_eq_flatMap, List.map_flatMap, List.map_flatMap]
    refine List.flatMap_congr (fun k hk => ?_)
    rw [List.map_map, List.map_map]
    refine List.map_congr_left (fun r hr => ?_)
    rw [Function.comp_apply, Function.comp_apply, ← Nat.add_assoc, hf k r (List.mem_range.mp hk) (List.mem_range.mp hr)]
  rw [hmap, range_mul_eq_flatMap]
  exact hperm.flatMap_right _

/-! ## Ethernet -/

/-- How many Ethernet slots are used (43_noc.md R282). -/
def ethUsed (geo : Geometry) (skip : Half) : Nat := min (ethLanes geo skip).length geo.ethSlots

theorem ethXY_eq (geo : Geometry) (skip : Half) (t : Table) : ethXY geo skip t = ((List.range (ethUsed geo skip)).foldl (fun t j =>
    t.setX (geo.ethPreX0 + j) (geo.ethX.getD ((ethLanes geo skip).getD j 0) 0)) t).setY geo.ethPreY geo.ethRow := rfl

/-- A lane that is not skipped is one of the lanes. -/
theorem ethLanes_lt {geo : Geometry} {skip : Half} {l : Nat} (h : l ∈ ethLanes geo skip) : l < geo.ethX.length :=
  List.mem_range.mp (List.mem_filter.mp h).1

/-- The used slots take the lanes' columns in order (43_noc.md R282). -/
theorem ethXY_xAt {geo : Geometry} (hgeo : GeometryOk geo) (skip : Half) (t : Table) {j : Nat} (hj : j < ethUsed geo skip) :
    (ethXY geo skip t).xAt (geo.ethPreX0 + j) = geo.ethX.getD ((ethLanes geo skip).getD j 0) 0 := by
  have hslot : geo.ethPreX0 + j < 32 := by
    refine hgeo.preX_lt _ ?_
    have hslots := hj.trans_le (Nat.min_le_right _ _)
    simp [Geometry.preXs, hslots]
  have hlane : (ethLanes geo skip).getD j 0 < geo.ethX.length := by
    have hlanes := hj.trans_le (Nat.min_le_left _ _)
    rw [List.getD_eq_getElem _ _ hlanes]
    exact ethLanes_lt (List.getElem_mem hlanes)
  have hcol : geo.ethX.getD ((ethLanes geo skip).getD j 0) 0 < 17 := by
    rw [List.getD_eq_getElem _ _ hlane]
    exact hgeo.physX_lt _ (by simp [Geometry.physXs])
  rw [ethXY_eq, Table.xAt_setY]
  refine xAt_foldl_setX (fun j => geo.ethPreX0 + j) (fun j => geo.ethX.getD ((ethLanes geo skip).getD j 0) 0) _ t (List.mem_range.mpr hj)
    hslot (hcol.trans (by decide)) (fun i _ hsame => ?_)
  obtain rfl := Nat.add_left_cancel hsame
  rfl

/-- The slots beyond the last lane are not written (43_noc.md R282). -/
theorem ethXY_xAt_unused (geo : Geometry) (skip : Half) (t : Table) {j : Nat} (hj : ethUsed geo skip ≤ j) :
    (ethXY geo skip t).xAt (geo.ethPreX0 + j) = t.xAt (geo.ethPreX0 + j) := by
  rw [ethXY_eq, Table.xAt_setY]
  refine foldl_keeps _ (fun t : Table => t.xAt (geo.ethPreX0 + j)) _ _ (fun a i hi => ?_)
  have hlt := List.mem_range.mp hi
  rw [Table.xAt_setX, if_neg (by omega)]

/-- The lanes' columns are among the Ethernet columns, in their order (43_noc.md R282). -/
theorem ethColumns_sublist (geo : Geometry) (skip : Half) (n : Nat) :
    (((ethLanes geo skip).take n).map (fun l => geo.ethX.getD l 0)).Sublist geo.ethX := by
  have hall : (List.range geo.ethX.length).map (fun l => geo.ethX.getD l 0) = geo.ethX :=
    List.ext_getElem (by rw [List.length_map, List.length_range]) (fun i _ hi => by
      rw [List.getElem_map, List.getElem_range, List.getD_eq_getElem _ _ hi])
  have hsub := ((List.take_sublist n _).trans List.filter_sublist : ((ethLanes geo skip).take n).Sublist (List.range geo.ethX.length)).map
    (fun l => geo.ethX.getD l 0)
  rwa [hall] at hsub

end Sys2Proof.Machine
end

section
/-! PROOF. COMPUTE's axes as a whole (O49): the classes use different indices, so each class reads as its own loop left it. -/

namespace Sys2Proof.Machine

/-! ## The stages of COMPUTE -/

/-- Ring 0 before SWEEP: the three boxes' axes over the identity (43_noc.md R275). -/
def boxTable (geo : Geometry) (h : Harvest) : Table :=
  ethXY geo h.skipEth (dramXY geo h.gddrBad (tensixX h.tensixBad identityTable))

/-- PCIe's mapping and the fixed nodes, in the order in which they are made (43_noc.md R281, R284). -/
def engineNodes (geo : Geometry) (nodes : List FixedNode) (h : Harvest) : List FixedNode := pcieNode geo h :: nodes

/-- COMPUTE's ring 0 before its nodes' mappings (43_noc.md R275). -/
def sweptTable (geo : Geometry) (h : Harvest) : Table := sweep geo (boxTable geo h)

section
variable (geo : Geometry) (nodes : List FixedNode) (h : Harvest)

theorem computedTable_xAt_nodes (i : Nat) : (computedTable geo nodes h).xAt i
    = ((engineNodes geo nodes h).foldl (fun t n => fixNode n t) (sweptTable geo h)).xAt i := rfl

theorem computedTable_yAt_nodes (i : Nat) : (computedTable geo nodes h).yAt i
    = ((engineNodes geo nodes h).foldl (fun t n => fixNode n t) (sweptTable geo h)).yAt i := rfl

theorem computedTable_logicalAt_nodes (x y : Nat) : (computedTable geo nodes h).logicalAt x y
    = ((engineNodes geo nodes h).foldl (fun t n => fixNode n t) (sweptTable geo h)).logicalAt x y := rfl

end

/-- The pre columns of the three boxes (43_noc.md R271). -/
def boxXs (geo : Geometry) : List Nat := tensixCols ++ [geo.dramPreXW, geo.dramPreXE] ++ List.range' geo.ethPreX0 geo.ethSlots

/-- The pre rows of the three boxes (43_noc.md R271). -/
def boxYs (geo : Geometry) : List Nat := geo.tensixRows ++ geo.dramPreYs ++ [geo.ethPreY]

theorem preXs_append (geo : Geometry) (nodes : List FixedNode) (h : Harvest) :
    geo.preXs ++ nodes.map FixedNode.preX = boxXs geo ++ (engineNodes geo nodes h).map FixedNode.preX := by
  simp [Geometry.preXs, boxXs, engineNodes, pcieNode]

theorem preYs_append (geo : Geometry) (nodes : List FixedNode) (h : Harvest) :
    geo.preYs ++ nodes.map FixedNode.preY = boxYs geo ++ (engineNodes geo nodes h).map FixedNode.preY := by
  simp [Geometry.preYs, boxYs, engineNodes, pcieNode]

/-! ## One axis, index by index -/

section
variable {geo : Geometry} {nodes : List FixedNode} {h : Harvest}

/-- An index that no mapping of a node uses reads as the boxes left it. -/
theorem computedTable_xAt_box {i : Nat} (hi : i ∉ (engineNodes geo nodes h).map FixedNode.preX) :
    (computedTable geo nodes h).xAt i = (boxTable geo h).xAt i := by
  obtain ⟨hp, hn⟩ := not_or.mp (mt List.mem_cons.mpr hi)
  rw [computedTable_xAt, fixedMappings_xAt_other _ _ _ _ _ hp hn, sweep_xAt, boxTable]

theorem computedTable_yAt_box {i : Nat} (hi : i ∉ (engineNodes geo nodes h).map FixedNode.preY) :
    (computedTable geo nodes h).yAt i = (boxTable geo h).yAt i := by
  obtain ⟨hp, hn⟩ := not_or.mp (mt List.mem_cons.mpr hi)
  rw [computedTable_yAt, fixedMappings_yAt_other _ _ _ _ _ hp hn, sweep_yAt, boxTable]

/-- An index that no box uses reads as the identity before the nodes' mappings (43_noc.md R276). -/
theorem boxTable_xAt_other {i : Nat} (hi : i < 32) (hbox : i ∉ boxXs geo) : (boxTable geo h).xAt i = i := by
  simp only [boxXs, List.mem_append, List.mem_pair, List.mem_range'_1, not_or] at hbox
  obtain ⟨⟨htensix, hwest, heast⟩, heth⟩ := hbox
  rw [boxTable, ethXY_xAt_other _ _ _ _ (by omega), dramXY_xAt_other _ _ _ _ hwest heast, tensixX_xAt_other _ _ _ htensix,
    identityTable_xAt i hi]

theorem dramXY_yAt_other (g : Byte) (t : Table) {i : Nat} (hi : i ∉ geo.dramPreYs) : (dramXY geo g t).yAt i = t.yAt i := by
  unfold dramXY
  rw [dramY_yAt_other _ _ _ hi]
  split <;> rfl

/-- A compute row, too, reads as the identity (43_noc.md R276, R277). -/
theorem boxTable_yAt_other {i : Nat} (hi : i < 32) (hdram : i ∉ geo.dramPreYs) (heth : i ≠ geo.ethPreY) : (boxTable geo h).yAt i = i := by
  rw [boxTable, ethXY_yAt_other _ _ _ _ heth, dramXY_yAt_other _ _ hdram, tensixX_yAt, identityTable_yAt i hi]

end

/-! ## The boxes' indices -/

/-- A DRAM position, by the bad channel's number (43_noc.md R280). -/
theorem dramPositions_getD {geo : Geometry} (h : Harvest) {k : Nat} (hk : k < geo.gddrPerCol) : (dramPositions geo (gddrHalf geo h.gddrBad).2).getD k 0
    = if geo.nGddr ≤ h.gddrBad.toNat then k else if k + 1 = geo.gddrPerCol then h.gddrBad.toNat % geo.gddrPerCol
      else if k < h.gddrBad.toNat % geo.gddrPerCol then k else k + 1 := by
  rcases Nat.lt_or_ge h.gddrBad.toNat geo.nGddr with hg | hg
  · rw [if_neg (Nat.not_le.mpr hg), gddrHalf_of_lt hg]
    exact dramPositions_getD_some geo (Nat.mod_lt _ (Nat.zero_lt_of_lt hk)) hk
  · rw [if_pos hg, gddrHalf_of_ge hg]
    exact dramPositions_getD_none geo hk

section
variable {geo : Geometry} (hgeo : GeometryOk geo) (h : Harvest)
include hgeo

/-- No compute slot is a DRAM or an Ethernet slot, and no DRAM slot an Ethernet slot (43_noc.md R271). -/
theorem boxXs_apart : (∀ i ∈ tensixCols, (i ≠ geo.dramPreXW ∧ i ≠ geo.dramPreXE) ∧ ∀ j, j < geo.ethSlots → i ≠ geo.ethPreX0 + j)
    ∧ geo.dramPreXW ≠ geo.dramPreXE
    ∧ ∀ j, j < geo.ethSlots → geo.dramPreXW ≠ geo.ethPreX0 + j ∧ geo.dramPreXE ≠ geo.ethPreX0 + j := by
  have hnodup := hgeo.preX_nodup
  rw [Geometry.preXs, List.nodup_append, List.nodup_append, List.nodup_append] at hnodup
  obtain ⟨⟨⟨_, hdram, htensixDram⟩, _, heth⟩, _⟩ := hnodup
  have hslot : ∀ j, j < geo.ethSlots → geo.ethPreX0 + j ∈ List.range' geo.ethPreX0 geo.ethSlots := fun j hj =>
    List.mem_range'_1.mpr ⟨Nat.le_add_right _ _, Nat.add_lt_add_left hj _⟩
  refine ⟨fun i hi => ⟨⟨htensixDram i hi _ (by simp), htensixDram i hi _ (by simp)⟩, fun j hj => ?_⟩, by simpa using hdram, fun j hj => ?_⟩
  · exact heth i (List.mem_append_left _ hi) _ (hslot j hj)
  · exact ⟨heth _ (List.mem_append_right _ (by simp)) _ (hslot j hj), heth _ (List.mem_append_right _ (by simp)) _ (hslot j hj)⟩

/-- Compute rows, DRAM rows and the Ethernet row are apart (43_noc.md R271). -/
theorem boxYs_apart : (∀ i ∈ geo.tensixRows, i ∉ geo.dramPreYs ∧ i ≠ geo.ethPreY) ∧ geo.ethPreY ∉ geo.dramPreYs := by
  have hnodup := hgeo.preY_nodup
  rw [Geometry.preYs, List.nodup_append, List.nodup_append, List.nodup_append] at hnodup
  obtain ⟨⟨⟨_, _, hrows⟩, _, heth⟩, _⟩ := hnodup
  refine ⟨fun i hi => ⟨fun hd => hrows i hi i hd rfl, ?_⟩, fun hd => ?_⟩
  · exact heth i (List.mem_append_left _ hi) _ (List.mem_singleton_self _)
  · exact heth _ (List.mem_append_right _ hd) _ (List.mem_singleton_self _) rfl

/-- The compute slots (43_noc.md R277). -/
theorem boxTable_tensix : tensixCols.map (boxTable geo h).xAt = tensixOrder h.tensixBad := by
  rw [← map_xAt_tensixX h.tensixBad identityTable]
  refine List.map_congr_left (fun i hi => ?_)
  obtain ⟨⟨hwest, heast⟩, heth⟩ := (boxXs_apart hgeo).1 i hi
  rw [boxTable, ethXY_xAt_other _ _ _ _ heth, dramXY_xAt_other _ _ _ _ hwest heast]

/-- The DRAM columns (43_noc.md R279). -/
theorem boxTable_dramXs : if h.gddrBad.toNat < geo.nGddr ∧ h.gddrBad.toNat / geo.gddrPerCol = 0
    then (boxTable geo h).xAt geo.dramPreXW = geo.gddrColE ∧ (boxTable geo h).xAt geo.dramPreXE = geo.gddrColW
    else (boxTable geo h).xAt geo.dramPreXW = geo.gddrColW ∧ (boxTable geo h).xAt geo.dramPreXE = geo.gddrColE := by
  obtain ⟨_, hne, heth⟩ := boxXs_apart hgeo
  rw [boxTable, ethXY_xAt_other _ _ _ _ (fun j hj => (heth j hj).1), ethXY_xAt_other _ _ _ _ (fun j hj => (heth j hj).2)]
  exact dramXY_xAt hgeo hne _ _

/-- The bad channel's position in its column (43_noc.md R279). -/
theorem gddrHalf_position_lt {b : Nat} (hb : (gddrHalf geo h.gddrBad).2 = some b) : b < geo.gddrPerCol := by
  rcases Nat.lt_or_ge h.gddrBad.toNat geo.nGddr with hg | hg
  · have hpos : 0 < geo.gddrPerCol := by
      have := hgeo.channels
      omega
    rw [gddrHalf_of_lt hg] at hb
    exact Option.some_inj.mp hb ▸ Nat.mod_lt _ hpos
  · rw [gddrHalf_of_ge hg] at hb
    cases hb

/-- The DRAM rows (43_noc.md R280). -/
theorem boxTable_dramYs {k r : Nat} (hk : k < geo.gddrPerCol) (hr : r < geo.gddrRowsPer) :
    (boxTable geo h).yAt (geo.dramPreY0 + k * geo.gddrRowsPer + r)
      = (dramPositions geo (gddrHalf geo h.gddrBad).2).getD k 0 * geo.gddrRowsPer + r := by
  have hne : geo.dramPreY0 + k * geo.gddrRowsPer + r ≠ geo.ethPreY :=
    fun e => (boxYs_apart hgeo).2 (e ▸ mem_dramPreYs geo hk hr)
  rw [boxTable, ethXY_yAt_other _ _ _ _ hne]
  exact dramY_yAt hgeo (fun b hb => gddrHalf_position_lt hgeo h hb) _ hk hr

/-- The used Ethernet slots (43_noc.md R282). -/
theorem boxTable_ethSlots : (List.range' geo.ethPreX0 (ethUsed geo h.skipEth)).map (boxTable geo h).xAt
    = ((ethLanes geo h.skipEth).take (ethUsed geo h.skipEth)).map (fun l => geo.ethX.getD l 0) := by
  have hlanes : ethUsed geo h.skipEth ≤ (ethLanes geo h.skipEth).length := Nat.min_le_left _ _
  refine List.ext_getElem ?_ (fun j hj _ => ?_)
  · rw [List.length_map, List.length_map, List.length_range', List.length_take_of_le hlanes]
  · rw [List.length_map, List.length_range'] at hj
    rw [List.getElem_map, List.getElem_range'_1, boxTable, ethXY_xAt hgeo _ _ hj, List.getElem_map, List.getElem_take,
      List.getD_eq_getElem _ _ (hj.trans_le hlanes)]

/-- The Ethernet slots beyond the last lane (43_noc.md R282). -/
theorem boxTable_ethUnused {j : Nat} (hused : ethUsed geo h.skipEth ≤ j) (hj : j < geo.ethSlots) :
    (boxTable geo h).xAt (geo.ethPreX0 + j) = geo.ethPreX0 + j := by
  obtain ⟨htensix, _, hdram⟩ := boxXs_apart hgeo
  obtain ⟨hwest, heast⟩ := hdram j hj
  rw [boxTable, ethXY_xAt_unused _ _ _ hused, dramXY_xAt_other _ _ _ _ hwest.symm heast.symm,
    tensixX_xAt_other _ _ _ (fun hm => (htensix _ hm).2 j hj rfl), identityTable_xAt _ (hgeo.preX_lt _ (by simp [Geometry.preXs, hj]))]

/-- The Ethernet row (43_noc.md R282). -/
theorem boxTable_ethRow : (boxTable geo h).yAt geo.ethPreY = geo.ethRow := by
  have hpre := hgeo.preY_lt geo.ethPreY (by simp [Geometry.preYs])
  have hrow := hgeo.physY_lt geo.ethRow (by simp [Geometry.physYs])
  rw [boxTable, ethXY_eq, Table.yAt_setY, if_pos ⟨rfl, hpre⟩, Nat.mod_eq_of_lt (by omega)]

end

/-! ## The nodes' mappings -/

/-- Where no two mappings share an index, each one's pre coordinate translates to its node (43_noc.md R284). -/
theorem foldl_fixNode_translate {ns : List FixedNode} (hx : (ns.map FixedNode.preX).Nodup) (hy : (ns.map FixedNode.preY).Nodup)
    (hin : ∀ n ∈ ns, (n.preX < 32 ∧ n.preY < 32) ∧ n.physX < 17 ∧ n.physY < 12) (t : Table) {n : FixedNode} (hn : n ∈ ns) :
    (ns.foldl (fun t n => fixNode n t) t).translate n.preX n.preY = (n.physX, n.physY) := by
  obtain ⟨⟨hpx, hpy⟩, hphysX, hphysY⟩ := hin n hn
  rw [Table.translate, Prod.mk.injEq]
  refine ⟨?x, ?y⟩
  case x =>
    refine (foldl_write_eq (fun t n => fixNode n t) (fun t => t.xAt n.preX) (fun m => n.preX = m.preX ∧ m.preX < 32) (fun m => m.physX % 256)
      ns t (fun a m _ => fixNode_xAt m a n.preX) hn ⟨rfl, hpx⟩ ?_).trans (Nat.mod_eq_of_lt (by omega))
    exact fun m hm hhit => by rw [List.inj_on_of_nodup_map hx hn hm hhit.1]
  case y =>
    refine (foldl_write_eq (fun t n => fixNode n t) (fun t => t.yAt n.preY) (fun m => n.preY = m.preY ∧ m.preY < 32) (fun m => m.physY % 256)
      ns t (fun a m _ => fixNode_yAt m a n.preY) hn ⟨rfl, hpy⟩ ?_).trans (Nat.mod_eq_of_lt (by omega))
    exact fun m hm hhit => by rw [List.inj_on_of_nodup_map hy hn hm hhit.1]

section
variable {p : Params}

/-- PCIe's node and the fixed nodes are inside the tables and the grid (43_noc.md R271). -/
theorem engineNodes_inside (hwf : p.wf = true) (h : Harvest) :
    ∀ n ∈ engineNodes p.geo p.fixedNodes h, (n.preX < 32 ∧ n.preY < 32) ∧ n.physX < 17 ∧ n.physY < 12 := by
  obtain ⟨hgeo, hnodes⟩ := geometry_of_params hwf
  intro n hn
  rcases List.mem_cons.mp hn with rfl | hn
  · refine ⟨⟨hgeo.preX_lt _ ?_, hgeo.preY_lt _ ?_⟩, hgeo.physX_lt _ ?_, hgeo.physY_lt _ ?_⟩
    · simp [Geometry.preXs, pcieNode]
    · simp [Geometry.preYs, pcieNode]
    · unfold pcieNode pciePhys
      split <;> simp [Geometry.physXs]
    · unfold pcieNode pciePhys
      split <;> simp [Geometry.physYs]
  · have hin := hnodes n hn
    simp only [FixedNode.wf, Bool.and_eq_true, decide_eq_true_eq] at hin
    obtain ⟨⟨⟨hpx, hpy⟩, hx⟩, hy⟩ := hin
    exact ⟨⟨hpx, hpy⟩, hx, hy⟩

section
variable (hapart : FixedNodesApart p.geo p.fixedNodes) (h : Harvest)
include hapart

/-- The boxes' indices read as the boxes left them (43_noc.md R284). -/
theorem computedTable_xAt_of_boxXs {i : Nat} (hi : i ∈ boxXs p.geo) : (computedTable p.geo p.fixedNodes h).xAt i = (boxTable p.geo h).xAt i := by
  have hnodup := hapart.1
  rw [preXs_append _ _ h, List.nodup_append] at hnodup
  obtain ⟨_, _, hdisjoint⟩ := hnodup
  exact computedTable_xAt_box (fun hm => hdisjoint i hi i hm rfl)

theorem computedTable_yAt_of_boxYs {i : Nat} (hi : i ∈ boxYs p.geo) : (computedTable p.geo p.fixedNodes h).yAt i = (boxTable p.geo h).yAt i := by
  have hnodup := hapart.2
  rw [preYs_append _ _ h, List.nodup_append] at hnodup
  obtain ⟨_, _, hdisjoint⟩ := hnodup
  exact computedTable_yAt_box (fun hm => hdisjoint i hi i hm rfl)

/-- PCIe's pre coordinate and every fixed node's translates to its node (43_noc.md R281, R284). -/
theorem computedTable_translate_node (hwf : p.wf = true) {n : FixedNode} (hn : n ∈ engineNodes p.geo p.fixedNodes h) :
    (computedTable p.geo p.fixedNodes h).translate n.preX n.preY = (n.physX, n.physY) := by
  obtain ⟨hx, hy⟩ := hapart
  rw [preXs_append _ _ h, List.nodup_append] at hx
  rw [preYs_append _ _ h, List.nodup_append] at hy
  exact foldl_fixNode_translate hx.2.1 hy.2.1 (engineNodes_inside hwf h) (sweptTable p.geo h) hn

end

end

/-- The node that PCIe's mapping names, by the override and the enable bits (43_noc.md R281). -/
theorem pciePhys_pcieInstance (geo : Geometry) (h : Harvest) : pciePhys geo (pcieInstance h)
    = if h.pcieOverride then (if h.pcieSel then geo.pciePhys1 else geo.pciePhys0)
      else if !h.pcieEn.getLsbD 0 && h.pcieEn.getLsbD 1 then geo.pciePhys1 else geo.pciePhys0 := by
  unfold pciePhys pcieInstance
  cases h.pcieOverride with
  | true => cases h.pcieSel <;> rfl
  | false => cases h.pcieEn.getLsbD 0 <;> cases h.pcieEn.getLsbD 1 <;> rfl

/-- Settles O49: each clause is the reading of one class's loop. -/
theorem classesDoNotAlias : Obligations.ClassesDoNotAlias := by
  unfold Obligations.ClassesDoNotAlias
  rintro p h T hwf hapart _ rfl
  obtain ⟨hgeo, _⟩ := geometry_of_params hwf
  have hboxX {i : Nat} := computedTable_xAt_of_boxXs hapart h (i := i)
  have hboxY {i : Nat} := computedTable_yAt_of_boxYs hapart h (i := i)
  have hnode {n : FixedNode} := computedTable_translate_node hapart h hwf (n := n)
  have htensix : tensixCols.map (computedTable p.geo p.fixedNodes h).xAt = tensixOrder h.tensixBad := by
    rw [← boxTable_tensix hgeo h]
    exact List.map_congr_left (fun i hi => hboxX (by simp [boxXs, hi]))
  have hwest : p.geo.dramPreXW ∈ boxXs p.geo := by simp [boxXs]
  have heast : p.geo.dramPreXE ∈ boxXs p.geo := by simp [boxXs]
  have hdramXs := boxTable_dramXs hgeo h
  rw [← hboxX hwest, ← hboxX heast] at hdramXs
  have hdramY : ∀ k r, k < p.geo.gddrPerCol → r < p.geo.gddrRowsPer →
      (computedTable p.geo p.fixedNodes h).yAt (p.geo.dramPreY0 + k * p.geo.gddrRowsPer + r)
        = (dramPositions p.geo (gddrHalf p.geo h.gddrBad).2).getD k 0 * p.geo.gddrRowsPer + r := fun k r hk hr => by
    rw [hboxY (by simp [boxYs, mem_dramPreYs p.geo hk hr]), boxTable_dramYs hgeo h hk hr]
  refine ⟨rfl, htensix, htensix ▸ tensixOrder_perm _, ?rows, hdramXs, ?dramColumns, ?dramRows, ?dramPerm, ?eth, ?ethRow, ?pcie, ?fixed, ?otherX,
    ?otherY, ?mirrorX, ?mirrorY⟩
  case rows =>
    intro y hy
    obtain ⟨hdram, heth⟩ := (boxYs_apart hgeo).1 y hy
    rw [hboxY (by simp [boxYs, hy]), boxTable_yAt_other (hgeo.preY_lt y (by simp [Geometry.preYs, hy])) hdram heth]
  case dramColumns =>
    split at hdramXs <;> obtain ⟨hw, he⟩ := hdramXs <;> simp only [List.map_cons, List.map_nil, hw, he]
    · exact List.Perm.swap _ _ _
    · exact List.Perm.refl _
  case dramRows =>
    rintro k r b hk hr rfl
    rw [hdramY k r hk hr, dramPositions_getD h hk]
  case dramPerm => exact map_dramPreYs_perm (fun b hb => gddrHalf_position_lt hgeo h hb) hdramY
  case eth =>
    rintro lanes n rfl rfl
    have hslot : ∀ j, j < p.geo.ethSlots → p.geo.ethPreX0 + j ∈ boxXs p.geo := fun j hj => by simp [boxXs, hj]
    have hslots : (List.range' p.geo.ethPreX0 (ethUsed p.geo h.skipEth)).map (computedTable p.geo p.fixedNodes h).xAt
        = ((ethLanes p.geo h.skipEth).take (ethUsed p.geo h.skipEth)).map (fun l => p.geo.ethX.getD l 0) := by
      rw [← boxTable_ethSlots hgeo h]
      refine List.map_congr_left (fun i hi => ?_)
      obtain ⟨j, hj, rfl⟩ := List.mem_range'.mp hi
      rw [Nat.one_mul, hboxX (hslot j (hj.trans_le (Nat.min_le_right _ _)))]
    have hsub := ethColumns_sublist p.geo h.skipEth (ethUsed p.geo h.skipEth)
    rw [← hslots] at hsub
    refine ⟨hslots, fun j hused hj => ?_, hsub.nodup, fun x hx => hsub.subset hx⟩
    rw [hboxX (hslot j hj), boxTable_ethUnused hgeo h hused hj]
  case ethRow => rw [hboxY (by simp [boxYs]), boxTable_ethRow hgeo h]
  case pcie =>
    rintro node rfl
    rw [← pciePhys_pcieInstance]
    exact hnode List.mem_cons_self
  case fixed => exact fun n hn => hnode (List.mem_cons_of_mem _ hn)
  case otherX =>
    intro i hi hother
    rw [preXs_append _ _ h, List.mem_append, not_or] at hother
    rw [computedTable_xAt_box hother.2, boxTable_xAt_other hi hother.1]
  case otherY =>
    intro i hi hother
    rw [preYs_append _ _ h, List.mem_append, not_or] at hother
    obtain ⟨hbox, hnodes⟩ := hother
    simp only [boxYs, List.mem_append, List.mem_singleton, not_or] at hbox
    rw [computedTable_yAt_box hnodes, boxTable_yAt_other hi hbox.1.2 hbox.2]
  case mirrorX => exact fun i hi hlt => (mirror_xAt _ i hi).trans (if_pos hlt)
  case mirrorY => exact fun i hi hlt => (mirror_yAt _ i hi).trans (if_pos hlt)

end Sys2Proof.Machine
end

section
/-! PROOF. The logical table (O50): SWEEP and the nodes' mappings as loops of writes, and that a written entry names a coordinate that translates back. -/

namespace Sys2Proof.Machine

/-! ## SWEEP as one loop -/

/-- One pre-translation coordinate of one box. -/
structure SweepStep where
  box : Box
  px : Nat
  py : Nat

/-- The coordinates of the boxes, in the order of the sweep (43_noc.md R283). -/
def sweepSteps (geo : Geometry) : List SweepStep :=
  (sweepBoxes geo).flatMap (fun b => b.preX.flatMap (fun px => b.preY.map (fun py => ⟨b, px, py⟩)))

theorem mem_sweepSteps (geo : Geometry) (b : Box) (px py : Nat) :
    (⟨b, px, py⟩ : SweepStep) ∈ sweepSteps geo ↔ b ∈ sweepBoxes geo ∧ px ∈ b.preX ∧ py ∈ b.preY := by
  simp only [sweepSteps, List.mem_flatMap, List.mem_map, SweepStep.mk.injEq]
  constructor
  · rintro ⟨_, hb, _, hx, _, hy, rfl, rfl, rfl⟩
    exact ⟨hb, hx, hy⟩
  · rintro ⟨hb, hx, hy⟩
    exact ⟨b, hb, px, hx, py, hy, rfl, rfl, rfl⟩

theorem sweep_eq (geo : Geometry) (t : Table) :
    sweep geo t = (sweepSteps geo).foldl (fun t w => sweepAt w.box w.px w.py t) t := by
  simp only [sweep, sweepBox, sweepSteps, List.foldl_flatMap, List.foldl_map]

/-- A pre coordinate of a box translates to node (x, y) inside the box's target (43_noc.md R283). -/
def BoxReaches (geo : Geometry) (t : Table) (x y px py : Nat) : Prop :=
  ∃ b ∈ sweepBoxes geo, px ∈ b.preX ∧ py ∈ b.preY ∧ x ∈ b.targetX ∧ y ∈ b.targetY ∧ t.translate px py = (x, y)

/-- One coordinate's write, on a table whose axes are those of `t` (43_noc.md R283). -/
theorem sweepAt_logicalAt {t u : Table} (haxes : u.xTable = t.xTable ∧ u.yTable = t.yTable) (w : SweepStep) {x y : Nat} (hx : x < 17) (hy : y < 12) :
    (sweepAt w.box w.px w.py u).logicalAt x y
      = if x ∈ w.box.targetX ∧ y ∈ w.box.targetY ∧ t.translate w.px w.py = (x, y) then packCoord w.px w.py else u.logicalAt x y := by
  have hxAt : u.xAt w.px = t.xAt w.px := by rw [Table.xAt, Table.xAt, haxes.1]
  have hyAt : u.yAt w.py = t.yAt w.py := by rw [Table.yAt, Table.yAt, haxes.2]
  simp only [sweepAt, hxAt, hyAt, Table.translate, Prod.mk.injEq]
  split
  · next hin =>
    rw [Table.logicalAt_setLogical]
    refine if_congr ⟨?_, ?_⟩ rfl rfl
    · rintro ⟨rfl, rfl, _⟩
      exact ⟨hin.1, hin.2, rfl, rfl⟩
    · rintro ⟨_, _, rfl, rfl⟩
      exact ⟨rfl, rfl, hx, hy⟩
  · next hout =>
    rw [if_neg]
    rintro ⟨htx, hty, rfl, rfl⟩
    exact hout ⟨htx, hty⟩

theorem sweepAt_axes (b : Box) (px py : Nat) (t : Table) : (sweepAt b px py t).xTable = t.xTable ∧ (sweepAt b px py t).yTable = t.yTable := by
  unfold sweepAt
  split <;> exact ⟨rfl, rfl⟩

/-- SWEEP at one node: some coordinate that reaches it names it, or none reaches it and its entry stays (43_noc.md R283). -/
theorem sweep_logicalAt (geo : Geometry) (t : Table) {x y : Nat} (hx : x < 17) (hy : y < 12) :
    (∃ px py, BoxReaches geo t x y px py ∧ (sweep geo t).logicalAt x y = packCoord px py)
      ∨ ((∀ px py, ¬BoxReaches geo t x y px py) ∧ (sweep geo t).logicalAt x y = t.logicalAt x y) := by
  rw [sweep_eq]
  rcases foldl_last_write_of (fun t (w : SweepStep) => sweepAt w.box w.px w.py t) (fun t => t.logicalAt x y)
      (fun w => x ∈ w.box.targetX ∧ y ∈ w.box.targetY ∧ t.translate w.px w.py = (x, y)) (fun w => packCoord w.px w.py)
      (fun u => u.xTable = t.xTable ∧ u.yTable = t.yTable) (sweepSteps geo) t ⟨rfl, rfl⟩
      (fun u hu w _ => ⟨(sweepAt_axes _ _ _ u).1.trans hu.1, (sweepAt_axes _ _ _ u).2.trans hu.2⟩)
      (fun u hu w _ => sweepAt_logicalAt hu w hx hy) with ⟨⟨b, px, py⟩, hw, ⟨htx, hty, hto⟩, hval⟩ | ⟨hnone, hval⟩
  · obtain ⟨hb, hpx, hpy⟩ := (mem_sweepSteps geo b px py).mp hw
    exact .inl ⟨px, py, ⟨b, hb, hpx, hpy, htx, hty, hto⟩, hval⟩
  · refine .inr ⟨?_, hval⟩
    rintro px py ⟨b, hb, hpx, hpy, htx, hty, hto⟩
    exact hnone ⟨b, px, py⟩ ((mem_sweepSteps geo b px py).mpr ⟨hb, hpx, hpy⟩) ⟨htx, hty, hto⟩

/-! ## The nodes' mappings -/

/-- The nodes' mappings at one node: the last one there names it, or there is none and its entry stays (43_noc.md R284). -/
theorem foldl_fixNode_logicalAt (ns : List FixedNode) (t : Table) {x y : Nat} (hx : x < 17) (hy : y < 12) :
    (∃ n ∈ ns, (n.physX, n.physY) = (x, y) ∧ (ns.foldl (fun t n => fixNode n t) t).logicalAt x y = packCoord n.preX n.preY)
      ∨ ((∀ n ∈ ns, (n.physX, n.physY) ≠ (x, y)) ∧ (ns.foldl (fun t n => fixNode n t) t).logicalAt x y = t.logicalAt x y) := by
  refine foldl_last_write (fun t n => fixNode n t) (fun t => t.logicalAt x y) (fun n => (n.physX, n.physY) = (x, y))
    (fun n => packCoord n.preX n.preY) ns t (fun u n _ => ?_)
  rw [fixNode_logicalAt]
  refine if_congr ?_ rfl rfl
  rw [Prod.mk.injEq]
  constructor
  · rintro ⟨rfl, rfl, _⟩
    exact ⟨rfl, rfl⟩
  · rintro ⟨rfl, rfl⟩
    exact ⟨rfl, rfl, hx, hy⟩

/-- The last mapping of a node is the one that its entry names (43_noc.md R284). -/
theorem foldl_fixNode_logicalAt_last (l r : List FixedNode) (n : FixedNode) (t : Table) (hx : n.physX < 17) (hy : n.physY < 12)
    (hlast : ∀ m ∈ r, (m.physX, m.physY) ≠ (n.physX, n.physY)) :
    ((l ++ n :: r).foldl (fun t n => fixNode n t) t).logicalAt n.physX n.physY = packCoord n.preX n.preY := by
  rw [List.foldl_append, List.foldl_cons]
  rcases foldl_fixNode_logicalAt r (fixNode n (l.foldl (fun t n => fixNode n t) t)) hx hy with ⟨m, hm, hsame, _⟩ | ⟨_, hkeep⟩
  · exact absurd hsame (hlast m hm)
  · rw [hkeep, fixNode_logicalAt, if_pos ⟨rfl, rfl, hx, hy⟩]

/-! ## Translating back -/

/-- A coordinate that translates to a node and that the node's entry names (43_noc.md R293). -/
structure NamesBack (t : Table) (x y px py : Nat) : Prop where
  px_lt : px < 32
  py_lt : py < 32
  names : t.logicalAt x y = packCoord px py
  translates : t.translate px py = (x, y)

theorem NamesBack.roundTrips {t : Table} {x y px py : Nat} (h : NamesBack t x y px py) : RoundTrips t x y := by
  rw [RoundTrips, h.names, unpackCoord_packCoord px py (h.px_lt.trans (by decide)) (h.py_lt.trans (by decide))]
  exact h.translates

/-- On ring 1 the reflected node's entry names the same coordinate, which translates to the reflected node (43_noc.md R286, R293). -/
theorem NamesBack.mirror {t : Table} {x y px py : Nat} (h : NamesBack t x y px py) (hx : x < 17) (hy : y < 12) :
    NamesBack (Machine.mirror t) (16 - x) (11 - y) px py := by
  obtain ⟨htx, hty⟩ := Prod.mk.inj h.translates
  refine ⟨h.px_lt, h.py_lt, (mirror_logicalAt_reflected t x y hx hy).trans h.names, ?_⟩
  rw [Table.translate, mirror_xAt t px h.px_lt, mirror_yAt t py h.py_lt, htx, hty, if_pos hx, if_pos hy]

/-! ## The boxes inside the tables and the grid -/

theorem mem_ascending2 {a b x : Nat} (h : x ∈ ascending2 a b) : x = a ∨ x = b := by
  rw [ascending2, List.mem_pair] at h
  omega

/-- A box's pre coordinates are those of the boxes' axes. -/
theorem sweepBoxes_pre {geo : Geometry} {b : Box} (hb : b ∈ sweepBoxes geo) : b.preX ⊆ boxXs geo ∧ b.preY ⊆ boxYs geo := by
  simp only [sweepBoxes, List.mem_cons, List.not_mem_nil, or_false] at hb
  rcases hb with rfl | rfl | rfl
  · exact ⟨fun _ hx => by simp [boxXs, hx], fun _ hy => by simp [boxYs, hy]⟩
  · exact ⟨fun _ hx => List.mem_append_left _ (List.mem_append_right _ (List.mem_pair.mpr (mem_ascending2 hx))), fun _ hy => by simp [boxYs, hy]⟩
  · exact ⟨fun _ hx => List.mem_append_right _ hx, fun _ hy => List.mem_append_right _ hy⟩

/-- A box's target is inside the grid (43_noc.md R271). -/
theorem sweepBoxes_target {geo : Geometry} (hgeo : GeometryOk geo) {b : Box} (hb : b ∈ sweepBoxes geo) :
    (∀ x ∈ b.targetX, x < 17) ∧ ∀ y ∈ b.targetY, y < 12 := by
  have hcols : ∀ x ∈ tensixCols, x < 17 := by decide
  simp only [sweepBoxes, List.mem_cons, List.not_mem_nil, or_false] at hb
  rcases hb with rfl | rfl | rfl
  · exact ⟨hcols, fun y hy => hgeo.physY_lt y (by simp [Geometry.physYs, hy])⟩
  · refine ⟨fun x hx => hgeo.physX_lt x ?_, fun y hy => (List.mem_range.mp hy).trans_le hgeo.dramFits⟩
    rcases List.mem_pair.mp hx with rfl | rfl <;> simp [Geometry.physXs]
  · exact ⟨fun x hx => hgeo.physX_lt x (by simp [Geometry.physXs, hx]),
      fun y hy => hgeo.physY_lt y (by simp [Geometry.physYs, List.mem_singleton.mp hy])⟩

/-- The boxes' axes leave the logical table at the identity (43_noc.md R276). -/
theorem boxTable_logicalAt (geo : Geometry) (h : Harvest) {x y : Nat} (hx : x < 17) (hy : y < 12) :
    (boxTable geo h).logicalAt x y = packCoord x y := by
  rw [boxTable, ethXY_logicalAt, dramXY_logicalAt, tensixX_logicalAt, identityTable_logicalAt x y hx hy]

/-- A node that a box's coordinate reaches is inside the grid. -/
theorem BoxReaches.inside {geo : Geometry} (hgeo : GeometryOk geo) {t : Table} {x y px py : Nat} (hr : BoxReaches geo t x y px py) :
    x < 17 ∧ y < 12 := by
  obtain ⟨b, hb, _, _, hx, hy, _⟩ := hr
  obtain ⟨htx, hty⟩ := sweepBoxes_target hgeo hb
  exact ⟨htx x hx, hty y hy⟩

/-- A node that the engine sets: a box's coordinate reaches it, or a mapping names it (43_noc.md R293). -/
theorem setByEngine_iff (geo : Geometry) (nodes : List FixedNode) (h : Harvest) (x y : Nat) : SetByEngine geo nodes h x y
    ↔ (∃ px py, BoxReaches geo (computedTable geo nodes h) x y px py) ∨ ∃ n ∈ engineNodes geo nodes h, (n.physX, n.physY) = (x, y) := by
  rw [engineNodes, List.exists_mem_cons_iff]
  refine or_congr ⟨?_, ?_⟩ (or_congr_left eq_comm)
  · rintro ⟨b, hb, px, hpx, py, hpy, hto⟩
    exact ⟨px, py, b, hb, hpx, hpy, hto⟩
  · rintro ⟨px, py, b, hb, hpx, hpy, hto⟩
    exact ⟨b, hb, px, hpx, py, hpy, hto⟩

section
variable {p : Params} (hapart : FixedNodesApart p.geo p.fixedNodes) (h : Harvest)
include hapart

/-- A box's coordinate translates after COMPUTE as it did when the box was swept (43_noc.md R284). -/
theorem boxReaches_computedTable {x y px py : Nat} :
    BoxReaches p.geo (computedTable p.geo p.fixedNodes h) x y px py ↔ BoxReaches p.geo (boxTable p.geo h) x y px py := by
  have htranslate : ∀ b ∈ sweepBoxes p.geo, px ∈ b.preX → py ∈ b.preY →
      (computedTable p.geo p.fixedNodes h).translate px py = (boxTable p.geo h).translate px py := by
    intro b hb hpx hpy
    obtain ⟨hboxX, hboxY⟩ := sweepBoxes_pre hb
    rw [Table.translate, Table.translate, computedTable_xAt_of_boxXs hapart h (hboxX hpx), computedTable_yAt_of_boxYs hapart h (hboxY hpy)]
  constructor <;> rintro ⟨b, hb, hpx, hpy, hx, hy, hto⟩
  · exact ⟨b, hb, hpx, hpy, hx, hy, htranslate b hb hpx hpy ▸ hto⟩
  · exact ⟨b, hb, hpx, hpy, hx, hy, (htranslate b hb hpx hpy).trans hto⟩

/-- COMPUTE's entry of one node: a mapping there names it; or, with none there, a box's coordinate that reaches it; or it is the identity. -/
theorem computedTable_logicalAt_cases (hwf : p.wf = true) {x y : Nat} (hx : x < 17) (hy : y < 12) :
    (∃ n ∈ engineNodes p.geo p.fixedNodes h, (n.physX, n.physY) = (x, y) ∧ NamesBack (computedTable p.geo p.fixedNodes h) x y n.preX n.preY)
      ∨ (∀ n ∈ engineNodes p.geo p.fixedNodes h, (n.physX, n.physY) ≠ (x, y))
        ∧ ((∃ px py, BoxReaches p.geo (computedTable p.geo p.fixedNodes h) x y px py ∧ NamesBack (computedTable p.geo p.fixedNodes h) x y px py)
          ∨ (∀ px py, ¬BoxReaches p.geo (computedTable p.geo p.fixedNodes h) x y px py)
            ∧ (computedTable p.geo p.fixedNodes h).logicalAt x y = packCoord x y) := by
  obtain ⟨hgeo, _⟩ := geometry_of_params hwf
  have hnodes := computedTable_logicalAt_nodes p.geo p.fixedNodes h x y
  rcases foldl_fixNode_logicalAt (engineNodes p.geo p.fixedNodes h) (sweptTable p.geo h) hx hy with ⟨n, hn, hat, hval⟩ | ⟨hnone, hkeep⟩
  · obtain ⟨⟨hpx, hpy⟩, _⟩ := engineNodes_inside hwf h n hn
    exact .inl ⟨n, hn, hat, hpx, hpy, hnodes.trans hval, (computedTable_translate_node hapart h hwf hn).trans hat⟩
  · refine .inr ⟨hnone, ?_⟩
    simp only [boxReaches_computedTable hapart h]
    rcases sweep_logicalAt p.geo (boxTable p.geo h) hx hy with ⟨px, py, hreach, hval⟩ | ⟨hunreached, hval⟩
    · obtain ⟨b, hb, hpx, hpy, _, _, hto⟩ := (boxReaches_computedTable hapart h).mpr hreach
      obtain ⟨hboxX, hboxY⟩ := sweepBoxes_pre hb
      exact .inl ⟨px, py, hreach, hgeo.preX_lt px (List.mem_append_left _ (hboxX hpx)), hgeo.preY_lt py (List.mem_append_left _ (hboxY hpy)),
        hnodes.trans (hkeep.trans hval), hto⟩
    · exact .inr ⟨hunreached, hnodes.trans (hkeep.trans (hval.trans (boxTable_logicalAt p.geo h hx hy)))⟩

/-- Every node that the engine sets is named back on both rings (43_noc.md R293). -/
theorem roundTrips_of_setByEngine (hwf : p.wf = true) {x y : Nat} (hset : SetByEngine p.geo p.fixedNodes h x y) :
    RoundTrips (computedTable p.geo p.fixedNodes h) x y ∧ RoundTrips (mirror (computedTable p.geo p.fixedNodes h)) (16 - x) (11 - y) := by
  obtain ⟨hgeo, _⟩ := geometry_of_params hwf
  rw [setByEngine_iff] at hset
  have hin : x < 17 ∧ y < 12 := by
    rcases hset with ⟨px, py, hreach⟩ | ⟨n, hn, hat⟩
    · exact hreach.inside hgeo
    · obtain ⟨rfl, rfl⟩ := Prod.mk.inj hat
      exact (engineNodes_inside hwf h n hn).2
  obtain ⟨hx, hy⟩ := hin
  obtain ⟨px, py, hnames⟩ : ∃ px py, NamesBack (computedTable p.geo p.fixedNodes h) x y px py := by
    rcases computedTable_logicalAt_cases hapart h hwf hx hy with ⟨n, _, _, hnames⟩ | ⟨hnone, ⟨px, py, _, hnames⟩ | ⟨hunreached, _⟩⟩
    · exact ⟨_, _, hnames⟩
    · exact ⟨px, py, hnames⟩
    · rcases hset with ⟨px, py, hreach⟩ | ⟨n, hn, hat⟩
      · exact absurd hreach (hunreached px py)
      · exact absurd hat (hnone n hn)
  exact ⟨hnames.roundTrips, (hnames.mirror hx hy).roundTrips⟩

end

/-- Settles O50: the entry of a node, by what sets it last. -/
theorem logicalRoundTrip : Obligations.LogicalRoundTrip := by
  unfold Obligations.LogicalRoundTrip
  rintro p h x y T hwf hapart _ rfl
  have hinside := engineNodes_inside hwf h
  refine ⟨roundTrips_of_setByEngine hapart h hwf, ?identity, ?fixed, fun hnofixed => ⟨?pcie, ?box⟩⟩
  case identity =>
    intro hx hy hunset
    rw [setByEngine_iff, not_or] at hunset
    obtain ⟨hunreached, hnonode⟩ := hunset
    rcases computedTable_logicalAt_cases hapart h hwf hx hy with ⟨n, hn, hat, _⟩ | ⟨_, ⟨px, py, hreach, _⟩ | ⟨_, hval⟩⟩
    · exact absurd ⟨n, hn, hat⟩ hnonode
    · exact absurd ⟨px, py, hreach⟩ hunreached
    · exact hval
  case fixed =>
    intro l n r hsplit hat hlast
    obtain ⟨rfl, rfl⟩ := Prod.mk.inj hat
    have hsplit' : engineNodes p.geo p.fixedNodes h = (pcieNode p.geo h :: l) ++ n :: r := by rw [engineNodes, hsplit, List.cons_append]
    obtain ⟨_, hx, hy⟩ := hinside n (by simp [hsplit'])
    rw [computedTable_logicalAt_nodes, hsplit']
    exact foldl_fixNode_logicalAt_last _ r n _ hx hy hlast
  case pcie =>
    intro hat
    obtain ⟨rfl, rfl⟩ : x = (pcieNode p.geo h).physX ∧ y = (pcieNode p.geo h).physY := Prod.mk.inj hat
    obtain ⟨_, hx, hy⟩ := hinside _ List.mem_cons_self
    exact foldl_fixNode_logicalAt_last [] p.fixedNodes (pcieNode p.geo h) (sweptTable p.geo h) hx hy hnofixed
  case box =>
    intro hnopcie b hb px hpx py hpy htx hty hto honly
    obtain ⟨hx, hy⟩ := BoxReaches.inside (geometry_of_params hwf).1 ⟨b, hb, hpx, hpy, htx, hty, hto⟩
    rcases computedTable_logicalAt_cases hapart h hwf hx hy with
      ⟨n, hn, hat, _⟩ | ⟨_, ⟨px', py', ⟨b', hb', hpx', hpy', htx', hty', hto'⟩, hnames⟩ | ⟨hunreached, _⟩⟩
    · rcases List.mem_cons.mp hn with rfl | hn
      · exact absurd hat.symm hnopcie
      · exact absurd hat (hnofixed n hn)
    · obtain ⟨rfl, rfl⟩ := honly b' hb' px' hpx' py' hpy' htx' hty' hto'
      exact hnames.names
    · exact absurd ⟨b, hb, hpx, hpy, htx, hty, hto⟩ (hunreached px py)

end Sys2Proof.Machine
end
